-- ==== Sys2Proof/Word.lean ====
section
/-! DEFINITION. The plain value types of the model: bytes, samples, levels with OFF (0.3.3), and the type of a sparse table. -/

namespace Sys2Proof

/-- One byte of a frame (Chapter 12). -/
abbrev Byte := BitVec 8

/-- One 24-bit signed audio sample (R25), read with `BitVec.toInt`. -/
abbrev Sample := BitVec 24

/-- A level in gain steps; OFF is a value of its own and means silence (0.3.3). -/
inductive Level where
  | off
  | step (n : Int)
  deriving DecidableEq, Repr

/-- Records by number, in rising order of number; which numbers are listed is said where a table is used. -/
abbrev Table (α : Type) := List (Nat × α)

/-- `v` clamped into `lo..hi` (0.3.3, R17). -/
def clampInt (lo hi v : Int) : Int := max lo (min hi v)

end Sys2Proof
end

