-- ==== Sys2Proof/Syntax.lean ====
section
/-! DEFINITION. The commands: one constructor per row of spec/opcode_table.json, with the fields its rule names.
Numbers are as the sender gives them, unchecked; enumerations are the codes of Chapter 12 (numbered from 0 in their tables' order). -/

namespace Sys2Proof

/-- The control ports: A the desk port, B the prompt port (Chapter 11). -/
inductive Port where
  | a | b
  deriving DecidableEq, Repr

/-- Where a request came from: its port and the tag that comes back in its reply (R187). -/
structure Hdr where
  port : Port
  tag : BitVec 16
  deriving DecidableEq, Repr

/-- A fade as a request or action gives it: duration in ms and curve code (LINEAR, EASE-IN, EASE-OUT). -/
structure FadeArg where
  dur : Nat
  curve : Nat
  deriving DecidableEq, Repr

/-- A route named by key, or by handle and generation (R3, R13). -/
inductive RouteRef where
  | key (src dst : Nat)
  | handle (h gen : Nat)
  deriving DecidableEq, Repr

/-- PostRoute's fields (section 1.7). -/
structure PostArgs where
  src : Nat
  dst : Nat
  level : Level
  fade : Option FadeArg
  set : Option Nat
  prot : Option Bool
  adopt : Bool
  deriving DecidableEq, Repr

/-- AmendRoute's fields; any may be omitted (section 1.7). -/
structure AmendArgs where
  route : RouteRef
  level : Option Level
  fade : Option FadeArg
  set : Option Nat
  prot : Option Bool
  adopt : Bool
  deriving DecidableEq, Repr

/-- The call fields of PlaceCall, SetCallPreset and the inline CALL action (R151); kind 0 LIVE, 1 RECORDED. -/
structure CallArgs where
  kind : Nat
  unit : Nat
  zones : BitVec 16
  groups : BitVec 8
  priority : Nat
  duck : Int
  maxWait : Nat
  deriving DecidableEq, Repr

/-- The source of a ROUTE action: a number, or a voice label of the cue (R93). -/
inductive SrcArg where
  | num (n : Nat)
  | label (l : Nat)
  deriving DecidableEq, Repr

/-- The target of a RETIRE action (R95); `other` is an unknown target code. -/
inductive RetireTarget where
  | key (src dst : Nat)
  | dest (dst : Nat)
  | all
  | other (code : Nat)
  deriving DecidableEq, Repr

/-- The target of a STOP or EXIT action (R98, R99). -/
inductive StopTarget where
  | clip (c : Nat)
  | all
  | other (code : Nat)
  deriving DecidableEq, Repr

/-- What a CALL action places (R101). -/
inductive CallTarget where
  | preset (p : Nat)
  | inline (c : CallArgs)
  | other (code : Nat)
  deriving DecidableEq, Repr

/-- The relation of a TEST action (R105). -/
inductive TestRel where
  | meterGe (src : Nat) (thr : Int)
  | meterLt (src : Nat) (thr : Int)
  | condAnd (c1 c2 : Nat)
  | condOr (c1 c2 : Nat)
  | contact (line : Nat)
  | other (code : Nat)
  deriving DecidableEq, Repr

/-- The thirteen action kinds with their parameters (TABLE 5-1, TABLE 12-4). In TEST and CHECK the form is 0 NORMAL, 1 UNCOND. -/
inductive ActionKind where
  | route (src : SrcArg) (dst : Nat) (level : Level) (fade : Option FadeArg) (set : Option Nat) (prot : Option Bool)
  | retire (target : RetireTarget) (fade : FadeArg)
  | play (label clip offset mode : Nat) (level : Int) (fadeIn : Nat)
  | stop (target : StopTarget) (dur : Nat)
  | exit (target : StopTarget)
  | fbBase (mix src : Nat) (level : Level) (fade : Option FadeArg) (resetTrim remove : Bool)
  | call (target : CallTarget)
  | test (rel : TestRel) (form ca cb : Nat)
  | check (set : Nat) (mask : BitVec 8) (form ca cb : Nat)
  | setc (cond : Nat) (value : Bool)
  | clears (set : Nat) (mask : BitVec 8)
  | outputs (setMask clearMask : BitVec 16)
  | event (h : Nat)
  | other (code : Nat)
  deriving DecidableEq, Repr

/-- An action: its qualifier, its kind and the clamped-at-posting mark (R64, section 5.1). -/
structure Action where
  qual : Nat
  kind : ActionKind
  clamped : Bool
  deriving DecidableEq, Repr

/-- A cue as PostCue gives it (R64); trigger 0 MANUAL, 1 FOLLOW, 2 CONTINUE, 3 EVENT; hint 0 NORMAL, 1 PRIORITY. -/
structure CueArgs where
  list : Nat
  number : Nat
  trigger : Nat
  eventId : Nat
  delay : Nat
  qual : Nat
  hint : Nat
  prot : Bool
  actions : List Action
  deriving DecidableEq, Repr

/-- PostClip's fields (R111). -/
structure ClipArgs where
  id : Nat
  addr : Nat
  len : Nat
  loop : Option (Nat × Nat)
  trim : Int
  prot : Bool
  replace : Bool
  deriving DecidableEq, Repr

/-- SetMixConfig's items (R130); loss policy 0 HOLD, 1 RECALL. -/
structure MixArgs where
  mix : Nat
  ceiling : Option Int
  trimMin : Option Int
  trimMax : Option Int
  adjustable : Option (List Nat)
  loss : Option Nat
  stopFeed : Option Bool
  deriving DecidableEq, Repr

/-- SetFoldbackBase's fields (R133, R134). -/
structure FbArgs where
  mix : Nat
  src : Nat
  level : Level
  fade : Option FadeArg
  prot : Option Bool
  resetTrim : Bool
  deriving DecidableEq, Repr

/-- SetZoneConfig's items (R147); `lamp := some none` takes the lamp line away. -/
structure ZoneArgs where
  zone : Nat
  enabled : Option Bool
  relay : Option Int
  fade : Option FadeArg
  call : Option Int
  attack : Option Nat
  release : Option Nat
  lamp : Option (Option Nat)
  groups : Option (BitVec 8)
  set : Option Nat
  deriving DecidableEq, Repr

/-- SetCallPreset's items (R159). -/
structure PresetArgs where
  preset : Nat
  kind : Option (Nat × Nat)
  zones : Option (BitVec 16)
  groups : Option (BitVec 8)
  priority : Option Nat
  duck : Option Int
  maxWait : Option Nat
  place : Option Nat
  release : Option Nat
  deriving DecidableEq, Repr

/-- SetContactInput's items (R170). -/
structure InputArgs where
  line : Nat
  rise : Option Bool
  fall : Option Bool
  settle : Option Nat
  limiter : Option Bool
  mirror : Option (Option Nat)
  deriving DecidableEq, Repr

/-- SetWatch's fields (R174); kind 0 METER, 1 CONTACTS; mode 0 OFF, 1 ONCE, 2 CHANGE, 3 CONTINUOUS. -/
structure WatchArgs where
  watch : Nat
  kind : Nat
  src : Nat
  low : Int
  high : Int
  mask : BitVec 16
  pattern : BitVec 16
  trigger : Nat
  mode : Nat
  pair : Option (Nat × Nat)
  deriving DecidableEq, Repr

/-- SetStopConfig's items (R180). -/
structure StopArgs where
  src : Option Nat
  aud : Option Int
  fold : Option Int
  relay : Option Int
  mask : Option (BitVec 32)
  deriving DecidableEq, Repr

/-- A panel's request (TABLE 7-4, R139); `other` is a kind outside 1-6 (R198). -/
inductive PanelReq where
  | ident (unit rev : Nat)
  | nudge (mix src : Nat) (step : Int)
  | setTrim (mix src : Nat) (trim : Int)
  | mute (mix src : Nat) (on : Bool)
  | recall (mix : Nat)
  | readMix (mix : Nat)
  | other (kind : Nat)
  deriving DecidableEq, Repr

/-- The commands of the part, in the order of spec/opcode_table.json. -/
inductive Instr where
  /-- COLD_RESET (R195) -/
  | coldReset
  /-- START_UP_COMPLETE (R195): training found a memory of `2 ^ sizeLog` words. -/
  | startUpComplete (sizeLog : Nat)
  /-- WRITE_REQUEST (R189): the bytes the host clocked after the selector. -/
  | writeRequest (port : Port) (bytes : List Byte)
  /-- READ_REPLY (R191): `clocked` bytes were clocked after the status byte. -/
  | readReply (port : Port) (clocked : Nat)
  /-- UNKNOWN_SELECTOR (R197) -/
  | unknownSelector (port : Port) (clocked : Nat)
  /-- UNKNOWN_REQUEST (R186): an unknown kind, or a length that does not suit its kind. -/
  | unknownRequest (h : Hdr) (kind : Nat)
  | postRoute (h : Hdr) (r : PostArgs)
  | amendRoute (h : Hdr) (r : AmendArgs)
  | lookupRoute (h : Hdr) (src dst : Nat)
  | readRoute (h : Hdr) (handle : Nat)
  | listRoutes (h : Hdr) (dst : Nat) (start : Option Nat)
  | setSourceTrim (h : Hdr) (src : Nat) (trim : Int)
  | setMaster (h : Hdr) (dst : Nat) (level : Level) (set : Option Nat)
  | setStatusControls (h : Hdr) (set : Nat) (clamp round : Option Nat) (mask : Option (BitVec 8))
  | readStatus (h : Hdr) (set : Nat)
  | clearStatus (h : Hdr) (set : Nat) (mask : BitVec 8)
  | readMeters (h : Hdr) (first count : Nat)
  | readLevels (h : Hdr)
  | retireRoute (h : Hdr) (route : RouteRef) (dur curve : Option Nat)
  | retireGroup (h : Hdr) (owner : Nat) (dst : Option Nat) (dur curve : Option Nat)
  | setRetireWindow (h : Hdr) (window : Nat)
  | readBatch (h : Hdr) (id : Nat)
  | postCue (h : Hdr) (c : CueArgs)
  | replaceCue (h : Hdr) (c : CueArgs)
  | retireCue (h : Hdr) (list number : Nat)
  | readCue (h : Hdr) (list number : Nat) (atOrAfter : Bool)
  | setStandby (h : Hdr) (list number : Nat)
  | setListConfig (h : Hdr) (list : Nat) (guard : Option Nat) (promptGo : Option Bool)
  | readList (h : Hdr) (list : Nat)
  | go (h : Hdr) (list : Nat)
  | setCondition (h : Hdr) (cond : Nat) (value : Bool)
  | setConditionPreset (h : Hdr) (cond : Nat) (value : Bool)
  | readConditions (h : Hdr)
  | setConditionLink (h : Hdr) (link eventId cond : Nat) (value : Bool)
  | postClip (h : Hdr) (c : ClipArgs)
  | retireClip (h : Hdr) (id : Nat)
  | readClip (h : Hdr) (id : Nat)
  | writeSamples (h : Hdr) (addr : Nat) (words : List Sample)
  /-- TRANSFER_COMPLETE (R115): the transfer in progress ends. -/
  | transferComplete
  | setPauseRamp (h : Hdr) (ramp : Nat)
  | readVoice (h : Hdr) (voice : Nat)
  /-- VOICE_START (R119) -/
  | voiceStart (voice : Nat)
  /-- VOICE_END (R126) -/
  | voiceEnd (voice : Nat)
  /-- VOICE_FADE_COMPLETE (R122) -/
  | voiceFadeComplete (voice : Nat)
  /-- PAUSE_RAMP_END (R124) -/
  | pauseRampEnd (voice : Nat)
  /-- PAUSE_RAMP_UP_END (R125) -/
  | pauseRampUpEnd (voice : Nat)
  /-- SAMPLE_PERIOD (R25): one sample of each of the 80 input slots. -/
  | samplePeriod (lanes : List Sample)
  /-- FRAME_BOUNDARY (R34) -/
  | frameBoundary
  /-- BASE_FADE_COMPLETE (R37) of the record in slot `handle`. -/
  | baseFadeComplete (handle : Nat)
  /-- DUCK_FADE_COMPLETE (R39) of the record in slot `handle`. -/
  | duckFadeComplete (handle : Nat)
  /-- WINDOW_EXPIRY (R54) -/
  | windowExpiry (batch : Nat)
  /-- BATCH_COMPLETE (R56) -/
  | batchComplete (batch : Nat)
  /-- TRIGGER_DUE (R80) -/
  | triggerDue (list : Nat)
  /-- METER_WINDOW (R42) -/
  | meterWindow
  /-- TIMER_PERIOD (R168) -/
  | timerPeriod (timer : Nat)
  /-- CALL_EXPIRED (R158) -/
  | callExpired (slot : Nat)
  /-- CONTACT_CHANGE (R169): the line now stands at `level` (true: high, asserted). -/
  | contactChange (line : Nat) (level : Bool)
  /-- CONTACT_SETTLE (R169) -/
  | contactSettle (line : Nat)
  /-- KEY_CHANGE (R179): the rehearsal key line now stands at `level`. -/
  | keyChange (level : Bool)
  | setMixConfig (h : Hdr) (m : MixArgs)
  | setFoldbackBase (h : Hdr) (f : FbArgs)
  | setFoldbackBaseRemove (h : Hdr) (f : FbArgs)
  | readMix (h : Hdr) (mix : Nat)
  | enrolPanel (h : Hdr) (addr : Nat) (mix : Option Nat)
  | withdrawPanel (h : Hdr) (addr : Nat)
  | readPanels (h : Hdr)
  /-- POLL_SLOT (R137) -/
  | pollSlot
  /-- POLL_UNANSWERED (R138): the slot of the poll to `addr` ends with no answer taken. -/
  | pollUnanswered (addr : Nat)
  /-- PANEL_LOST (R143): the slot of the eighth such poll in a row ends. -/
  | panelLost (addr : Nat)
  /-- PANEL_ANSWER (R138, R198): the bytes of a frame that arrived whole within the slot. -/
  | panelAnswer (bytes : List Byte)
  /-- IDENT (R142): a well-formed answer of the polled panel `addr` carrying this request; so for the five below. -/
  | ident (addr seq unit rev : Nat)
  | nudge (addr seq mix src : Nat) (step : Int)
  | setTrim (addr seq mix src : Nat) (trim : Int)
  | mute (addr seq mix src : Nat) (on : Bool)
  | recall (addr seq mix : Nat)
  | readMixPanel (addr seq mix : Nat)
  | setZoneConfig (h : Hdr) (z : ZoneArgs)
  | readZone (h : Hdr) (zone : Nat)
  | placeCall (h : Hdr) (c : CallArgs)
  | releaseCall (h : Hdr) (id seq : Nat)
  | cancelCall (h : Hdr) (id seq : Nat)
  | readCall (h : Hdr) (id : Nat)
  | readQueue (h : Hdr)
  | setCallPreset (h : Hdr) (p : PresetArgs)
  | readCallPreset (h : Hdr) (preset : Nat)
  /-- SetLink (R166): slots 0-3 the list GO links, 4 the stop link, 5 the resume link. -/
  | setLink (h : Hdr) (slot eventId : Nat)
  | readLinks (h : Hdr)
  | raiseEvent (h : Hdr) (host : Nat)
  /-- The nine deliveries (R165): the consumer takes the oldest event in flight that it may take. -/
  | goLink (list : Nat)
  | eventTriggerArrival (list : Nat)
  | outputFunction (fn : Nat)
  | watchEvaluation (watch : Nat)
  | presetPlaceLink (preset : Nat)
  | presetReleaseLink (preset : Nat)
  | conditionLink (link : Nat)
  | stopLink
  | resumeLink
  | setContactInput (h : Hdr) (c : InputArgs)
  | readContacts (h : Hdr)
  | setContactOutputs (h : Hdr) (mask levels : BitVec 16)
  | setOutputOwner (h : Hdr) (mask : BitVec 16) (owner : Nat)
  | setOutputFunction (h : Hdr) (fn : Nat) (trigger : Option Nat) (setMask clearMask : Option (BitVec 16))
  | setWatch (h : Hdr) (w : WatchArgs)
  | readWatch (h : Hdr) (watch : Nat)
  | lockShow (h : Hdr)
  | unlockShow (h : Hdr)
  | setStopConfig (h : Hdr) (c : StopArgs)
  | readShowState (h : Hdr)
  | showStop (h : Hdr)
  | showResume (h : Hdr)
  | presetShow (h : Hdr)
  | fetchNotices (h : Hdr)
  | readNotices (h : Hdr)
  | setNoticeNode (h : Hdr) (node : Nat) (enable : Option Bool) (mask : Option (BitVec 32))
  | readIdentity (h : Hdr)
  deriving DecidableEq, Repr

end Sys2Proof
end

