-- ==== Sys2Proof/Decode.lean ====
section
/-! DEFINITION. From bytes to commands: request frames (TABLE 12-2, R197), cues and actions (12.3), and panel answers with their CRC
(12.5, R198). No row of spec/opcode_table.json gives bits, so a table word spells no command. The layouts Chapter 12 gives by the sorts
of their fields are log 18; codes and flag bytes log 20. -/

namespace Sys2Proof

/-! ## Bytes -/

/-- The number the bytes spell, most significant first. -/
def number (l : List Byte) : Nat := l.foldl (fun n b => 256 * n + b.toNat) 0

/-- A `w`-byte number read as two's complement. -/
def signed (w n : Nat) : Int := if n < 2 ^ (8 * w - 1) then n else (n : Int) - 2 ^ (8 * w)

/-- The items of the given widths, where the bytes are exactly theirs. -/
def items : List Nat → List Byte → Option (List Nat)
  | [], [] => some []
  | [], _ :: _ => none
  | w :: ws, bs => if bs.length < w then none else (items ws (bs.drop w)).map (fun l => number (bs.take w) :: l)

/-- A level field: OFF is 0x8000. -/
def levelField (n : Nat) : Level := if n = 0x8000 then .off else .step (signed 2 n)

/-- A flag byte: 0 is no (log 20). -/
def flagField (n : Nat) : Bool := n != 0

/-- A one-byte field that may hold "none" (0xFF). -/
def optField (n : Nat) : Option Nat := if n = 0xFF then none else some n

/-- An omittable item: given where bit `i` of the presence byte is set. -/
def given {α : Type} (pres i : Nat) (x : α) : Option α := if pres.testBit i then some x else none

/-- A route by key (form 0) or by handle and generation (form 1); another form names a handle that does not exist (log 20). -/
def routeField (form src dst h g : Nat) : RouteRef :=
  if form = 0 then .key src dst else if form = 1 then .handle h g else .handle 65535 g

/-! ## Actions and cues (12.3) -/

/-- A fade field of an action: 0xFFFFFFFF where the action gives none (log 18). -/
def fadeField (dur curve : Nat) : Option FadeArg := if dur = 0xFFFFFFFF then none else some ⟨dur, curve⟩

/-- A call as PlaceCall and the CALL action lay it out. -/
def callField (kind unit zones groups prio duck wait : Nat) : CallArgs :=
  ⟨kind, unit, BitVec.ofNat 16 zones, BitVec.ofNat 8 groups, prio, signed 2 duck, wait⟩

/-- A STOP or EXIT target. -/
def stopField (t c : Nat) : StopTarget := if t = 0 then .clip c else if t = 1 then .all else .other t

/-- The relations of TEST in the order of their table. -/
def relField (rel x c2 thr : Nat) : TestRel :=
  match rel with
  | 0 => .meterGe x (signed 2 thr)
  | 1 => .meterLt x (signed 2 thr)
  | 2 => .condAnd x c2
  | 3 => .condOr x c2
  | 4 => .contact x
  | n => .other n

/-- The items at the front of an action's parameters. -/
def params (ws : List Nat) (bs : List Byte) : List Nat := (items ws (bs.take ws.sum)).getD []

/-- TABLE 12-4: an action's kind and parameters. -/
def actionKind (kind : Nat) (p : List Byte) : ActionKind :=
  match kind with
  | 1 => match params [1, 1, 1, 2, 4, 1, 1, 1] p with
    | [form, src, dst, level, dur, curve, set, prot] =>
      .route (if form = 0 then .num src else if form = 1 then .label src else .label 0xFF) dst (levelField level) (fadeField dur curve)
        (optField set) ((optField prot).map flagField)
    | _ => .other kind
  | 2 => match params [1, 1, 1, 4, 1] p with
    | [t, src, dst, dur, curve] =>
      .retire (if t = 0 then .key src dst else if t = 1 then .dest dst else if t = 2 then .all else .other t) ⟨dur, curve⟩
    | _ => .other kind
  | 3 => match params [1, 2, 4, 1, 2, 4] p with
    | [label, clip, offset, mode, level, fadeIn] => .play label clip offset mode (signed 2 level) fadeIn
    | _ => .other kind
  | 4 => match params [1, 2, 4] p with
    | [t, clip, dur] => .stop (stopField t clip) dur
    | _ => .other kind
  | 5 => match params [1, 2] p with
    | [t, clip] => .exit (stopField t clip)
    | _ => .other kind
  | 6 => match params [1, 1, 2, 4, 1, 1] p with
    | [mix, src, level, dur, curve, marks] =>
      .fbBase mix src (levelField level) (fadeField dur curve) (marks.testBit 0) (marks.testBit 1)
    | _ => .other kind
  | 7 => match params [1, 1, 1, 2, 2, 1, 1, 2, 4] p with
    | [form, preset, ck, unit, zones, groups, prio, duck, wait] =>
      .call (if form = 0 then .preset preset else if form = 1 then .inline (callField ck unit zones groups prio duck wait) else .other form)
    | _ => .other kind
  | 8 => match params [1, 1, 1, 1, 1, 1, 2] p with
    | [rel, form, ca, cb, x, c2, thr] => .test (relField rel x c2 thr) form ca cb
    | _ => .other kind
  | 9 => match params [1, 1, 1, 1, 1] p with
    | [set, mask, form, ca, cb] => .check set (BitVec.ofNat 8 mask) form ca cb
    | _ => .other kind
  | 10 => match params [1, 1] p with
    | [c, v] => .setc c (flagField v)
    | _ => .other kind
  | 11 => match params [1, 1] p with
    | [set, mask] => .clears set (BitVec.ofNat 8 mask)
    | _ => .other kind
  | 12 => match params [2, 2] p with
    | [a, b] => .outputs (BitVec.ofNat 16 a) (BitVec.ofNat 16 b)
    | _ => .other kind
  | 13 => match params [1] p with
    | [h] => .event h
    | _ => .other kind
  | n => .other n

/-- An action from its 24 bytes; the clamped-at-posting mark is ignored on receipt (12.3). -/
def actionField (bs : List Byte) : Action := ⟨number ((bs.drop 1).take 1), actionKind (number (bs.take 1)) (bs.drop 2), false⟩

/-- `n` actions of 24 bytes each. -/
def actionFields : Nat → List Byte → List Action
  | 0, _ => []
  | n + 1, bs => actionField (bs.take 24) :: actionFields n (bs.drop 24)

/-- PostCue from its header and actions (12.3); the replace flag makes it the row REPLACE_CUE. -/
def cueRequest (h : Hdr) (p : List Byte) : Option Instr :=
  match items [1, 4, 1, 2, 4, 1, 1, 1, 1] (p.take 16) with
  | some [list, num, trig, ev, delay, qual, hint, flags, count] =>
    if p.length = 16 + 24 * count then
      let c : CueArgs := ⟨list, num, trig, ev, delay, qual, hint, flags.testBit 0, actionFields count (p.drop 16)⟩
      some (if flags.testBit 1 then .replaceCue h c else .postCue h c)
    else none
  | _ => none

/-- The words of a WriteSamples: the low 24 bits of each four bytes (12.1). -/
def wordFields : Nat → List Byte → List Sample
  | 0, _ => []
  | n + 1, bs => BitVec.ofNat 24 (number (bs.take 4)) :: wordFields n (bs.drop 4)

/-- WriteSamples: address, count byte, words. -/
def samplesRequest (h : Hdr) (p : List Byte) : Option Instr :=
  match items [4, 1] (p.take 5) with
  | some [addr, count] => if p.length = 5 + 4 * count then some (.writeSamples h addr (wordFields count (p.drop 5))) else none
  | _ => none

/-- SetMixConfig: its adjustable set is a list of source numbers at the end, after its count byte. The ends of the trim window are two omittable
items (log 18). -/
def mixRequest (h : Hdr) (p : List Byte) : Option Instr :=
  match items [1, 1, 2, 2, 2, 1, 1, 1] (p.take 11) with
  | some [pres, mix, ceil, lo, hi, loss, feed, count] =>
    if p.length = 11 + count then
      some (.setMixConfig h ⟨mix, given pres 0 (signed 2 ceil), given pres 1 (signed 2 lo), given pres 2 (signed 2 hi),
        given pres 3 ((p.drop 11).map (·.toNat)), given pres 4 loss, given pres 5 (flagField feed)⟩)
    else none
  | _ => none

/-! ## Requests: TABLE 11-2 read row by row (12.1), a file's worth of kinds at a time -/

/-- Kinds 1 to 16, Chapters 1 to 3; none where the payload's length does not suit. ListRoutes' optional starting handle is an omittable item with its
presence byte (log 18). -/
def routeRequest (h : Hdr) (kind : Nat) (p : List Byte) : Option Instr :=
  match kind with
  | 1 => match items [1, 1, 1, 2, 4, 1, 1, 1, 1] p with
    | some [pres, src, dst, level, dur, curve, set, prot, adopt] =>
      some (.postRoute h ⟨src, dst, levelField level, given pres 0 ⟨dur, curve⟩, given pres 1 set, given pres 2 (flagField prot),
        flagField adopt⟩)
    | _ => none
  | 2 => match items [1, 1, 1, 1, 2, 2, 2, 4, 1, 1, 1, 1] p with
    | some [pres, form, src, dst, hd, gen, level, dur, curve, set, prot, adopt] =>
      some (.amendRoute h ⟨routeField form src dst hd gen, given pres 0 (levelField level), given pres 1 ⟨dur, curve⟩, given pres 2 set,
        given pres 3 (flagField prot), flagField adopt⟩)
    | _ => none
  | 3 => match items [1, 1] p with
    | some [src, dst] => some (.lookupRoute h src dst)
    | _ => none
  | 4 => match items [2] p with
    | some [hd] => some (.readRoute h hd)
    | _ => none
  | 5 => match items [1, 1, 2] p with
    | some [pres, dst, start] => some (.listRoutes h dst (given pres 0 start))
    | _ => none
  | 6 => match items [1, 2] p with
    | some [src, trim] => some (.setSourceTrim h src (signed 2 trim))
    | _ => none
  | 7 => match items [1, 1, 2, 1] p with
    | some [pres, dst, level, set] => some (.setMaster h dst (levelField level) (given pres 0 set))
    | _ => none
  | 8 => match items [1, 1, 1, 1, 1] p with
    | some [pres, set, clamp, round, mask] =>
      some (.setStatusControls h set (given pres 0 clamp) (given pres 1 round) (given pres 2 (BitVec.ofNat 8 mask)))
    | _ => none
  | 9 => match items [1, 1] p with
    | some [set, mask] => some (.clearStatus h set (BitVec.ofNat 8 mask))
    | _ => none
  | 10 => match items [1, 2] p with
    | some [first, count] => some (.readMeters h first count)
    | _ => none
  | 11 => match items [] p with
    | some _ => some (.readLevels h)
    | _ => none
  | 12 => match items [1] p with
    | some [set] => some (.readStatus h set)
    | _ => none
  | 13 => match items [1, 1, 1, 1, 2, 2, 4, 1] p with
    | some [pres, form, src, dst, hd, gen, dur, curve] =>
      some (.retireRoute h (routeField form src dst hd gen) (given pres 0 dur) (given pres 1 curve))
    | _ => none
  | 14 => match items [1, 1, 1, 4, 1] p with
    | some [pres, owner, dst, dur, curve] => some (.retireGroup h owner (given pres 0 dst) (given pres 1 dur) (given pres 2 curve))
    | _ => none
  | 15 => match items [4] p with
    | some [w] => some (.setRetireWindow h w)
    | _ => none
  | 16 => match items [1] p with
    | some [id] => some (.readBatch h id)
    | _ => none
  | _ => none

/-- Kinds 17 to 33, Chapters 4 to 6. ReadCue's at-or-after mark is a plain flag byte with no presence byte, so 6 bytes suit it; a condition's value is a
flag, 1 for TRUE; a PostClip's loop is one omittable item of two fields (log 18). -/
def cueListRequest (h : Hdr) (kind : Nat) (p : List Byte) : Option Instr :=
  match kind with
  | 17 => cueRequest h p
  | 18 => match items [1, 4] p with
    | some [list, num] => some (.retireCue h list num)
    | _ => none
  | 19 => match items [1, 4] p with
    | some [list, num] => some (.setStandby h list num)
    | _ => none
  | 20 => match items [1, 1, 4, 1] p with
    | some [pres, list, guard, prompt] => some (.setListConfig h list (given pres 0 guard) (given pres 1 (flagField prompt)))
    | _ => none
  | 21 => match items [1] p with
    | some [list] => some (.go h list)
    | _ => none
  | 22 => match items [1, 4, 1] p with
    | some [list, num, after] => some (.readCue h list num (flagField after))
    | _ => none
  | 23 => match items [1] p with
    | some [list] => some (.readList h list)
    | _ => none
  | 24 => match items [1, 1] p with
    | some [c, v] => some (.setConditionPreset h c (flagField v))
    | _ => none
  | 25 => match items [1, 2, 1, 1] p with
    | some [l, ev, c, v] => some (.setConditionLink h l ev c (flagField v))
    | _ => none
  | 26 => match items [1, 1] p with
    | some [c, v] => some (.setCondition h c (flagField v))
    | _ => none
  | 27 => match items [] p with
    | some _ => some (.readConditions h)
    | _ => none
  | 28 => match items [1, 2, 4, 4, 4, 4, 2, 1, 1] p with
    | some [pres, id, addr, len, a, e, trim, prot, replace] =>
      some (.postClip h ⟨id, addr, len, given pres 0 (a, e), signed 2 trim, flagField prot, flagField replace⟩)
    | _ => none
  | 29 => match items [2] p with
    | some [id] => some (.retireClip h id)
    | _ => none
  | 30 => samplesRequest h p
  | 31 => match items [4] p with
    | some [r] => some (.setPauseRamp h r)
    | _ => none
  | 32 => match items [2] p with
    | some [id] => some (.readClip h id)
    | _ => none
  | 33 => match items [1] p with
    | some [v] => some (.readVoice h v)
    | _ => none
  | _ => none

/-- Kinds 34 to 48, Chapters 7 and 8; SetFoldbackBase with *remove* is the row SET_FOLDBACK_BASE_REMOVE. Its fade and its protected flag may be
omitted; SetZoneConfig's fade stands with presence bit 2 between the relay level and the call level; SetCallPreset's zones and groups are two
omittable items, presence bits 1 and 2; an EnrolPanel's mix of none is 0xFF, with no
presence byte (log 18). -/
def foldbackCallRequest (h : Hdr) (kind : Nat) (p : List Byte) : Option Instr :=
  match kind with
  | 34 => mixRequest h p
  | 35 => match items [1, 1, 1, 2, 4, 1, 1, 1] p with
    | some [pres, mix, src, level, dur, curve, prot, marks] =>
      let f : FbArgs := ⟨mix, src, levelField level, given pres 0 ⟨dur, curve⟩, given pres 1 (flagField prot), marks.testBit 0⟩
      some (if marks.testBit 1 then .setFoldbackBaseRemove h f else .setFoldbackBase h f)
    | _ => none
  | 36 => match items [1, 1] p with
    | some [addr, mix] => some (.enrolPanel h addr (optField mix))
    | _ => none
  | 37 => match items [1] p with
    | some [addr] => some (.withdrawPanel h addr)
    | _ => none
  | 38 => match items [1] p with
    | some [mix] => some (.readMix h mix)
    | _ => none
  | 39 => match items [] p with
    | some _ => some (.readPanels h)
    | _ => none
  | 40 => match items [2, 1, 1, 2, 4, 1, 2, 4, 4, 1, 1, 1] p with
    | some [pres, zone, en, relay, dur, curve, call, attack, release, lamp, groups, set] =>
      some (.setZoneConfig h ⟨zone, given pres 0 (flagField en), given pres 1 (signed 2 relay), given pres 2 ⟨dur, curve⟩,
        given pres 3 (signed 2 call), given pres 4 attack, given pres 5 release, given pres 6 (optField lamp),
        given pres 7 (BitVec.ofNat 8 groups), given pres 8 set⟩)
    | _ => none
  | 41 => match items [1, 1, 1, 2, 2, 1, 1, 2, 4, 2, 2] p with
    | some [pres, preset, ck, unit, zones, groups, prio, duck, wait, place, release] =>
      some (.setCallPreset h ⟨preset, given pres 0 (ck, unit), given pres 1 (BitVec.ofNat 16 zones), given pres 2 (BitVec.ofNat 8 groups),
        given pres 3 prio, given pres 4 (signed 2 duck), given pres 5 wait, given pres 6 place, given pres 7 release⟩)
    | _ => none
  | 42 => match items [1, 2, 2, 1, 1, 2, 4] p with
    | some [ck, unit, zones, groups, prio, duck, wait] => some (.placeCall h (callField ck unit zones groups prio duck wait))
    | _ => none
  | 43 => match items [1, 2] p with
    | some [id, seq] => some (.releaseCall h id seq)
    | _ => none
  | 44 => match items [1, 2] p with
    | some [id, seq] => some (.cancelCall h id seq)
    | _ => none
  | 45 => match items [1] p with
    | some [zone] => some (.readZone h zone)
    | _ => none
  | 46 => match items [1] p with
    | some [id] => some (.readCall h id)
    | _ => none
  | 47 => match items [] p with
    | some _ => some (.readQueue h)
    | _ => none
  | 48 => match items [1] p with
    | some [preset] => some (.readCallPreset h preset)
    | _ => none
  | _ => none

/-- Kinds 49 to 69, Chapters 9 to 11. Log 18 for all of this: SetContactOutputs gives the levels of its lines as a second mask of two bytes, 1 for
high, so 4 bytes suit it; SetContactInput's limiter is a flag byte, on where it is not 0; a SetWatch carries the parameters of both kinds, those of
the other kind ignored, and its pair is none where ca is 0xFF, whatever cb holds. -/
def showRequest (h : Hdr) (kind : Nat) (p : List Byte) : Option Instr :=
  match kind with
  | 49 => match items [1, 2] p with
    | some [slot, ev] => some (.setLink h slot ev)
    | _ => none
  | 50 => match items [1, 1, 1, 1, 4, 1, 1] p with
    | some [pres, line, rise, fall, settle, limiter, mirror] =>
      some (.setContactInput h ⟨line, given pres 0 (flagField rise), given pres 1 (flagField fall), given pres 2 settle,
        given pres 3 (flagField limiter), given pres 4 (optField mirror)⟩)
    | _ => none
  | 51 => match items [2, 2] p with
    | some [mask, levels] => some (.setContactOutputs h (BitVec.ofNat 16 mask) (BitVec.ofNat 16 levels))
    | _ => none
  | 52 => match items [2, 1] p with
    | some [mask, owner] => some (.setOutputOwner h (BitVec.ofNat 16 mask) owner)
    | _ => none
  | 53 => match items [1, 1, 2, 2, 2] p with
    | some [pres, fn, trig, a, b] =>
      some (.setOutputFunction h fn (given pres 0 trig) (given pres 1 (BitVec.ofNat 16 a)) (given pres 2 (BitVec.ofNat 16 b)))
    | _ => none
  | 54 => match items [1, 1, 1, 2, 2, 2, 2, 2, 1, 1, 1] p with
    | some [w, wk, src, low, high, mask, pattern, trig, mode, ca, cb] =>
      some (.setWatch h ⟨w, wk, src, signed 2 low, signed 2 high, BitVec.ofNat 16 mask, BitVec.ofNat 16 pattern, trig, mode,
        (optField ca).map (fun a => (a, cb))⟩)
    | _ => none
  | 55 => match items [1] p with
    | some [e] => some (.raiseEvent h e)
    | _ => none
  | 56 => match items [] p with
    | some _ => some (.readLinks h)
    | _ => none
  | 57 => match items [] p with
    | some _ => some (.readContacts h)
    | _ => none
  | 58 => match items [1] p with
    | some [w] => some (.readWatch h w)
    | _ => none
  | 59 => match items [] p with
    | some _ => some (.lockShow h)
    | _ => none
  | 60 => match items [] p with
    | some _ => some (.unlockShow h)
    | _ => none
  | 61 => match items [1, 1, 2, 2, 2, 4] p with
    | some [pres, src, aud, fold, relay, mask] =>
      some (.setStopConfig h ⟨given pres 0 src, given pres 1 (signed 2 aud), given pres 2 (signed 2 fold), given pres 3 (signed 2 relay),
        given pres 4 (BitVec.ofNat 32 mask)⟩)
    | _ => none
  | 62 => match items [] p with
    | some _ => some (.presetShow h)
    | _ => none
  | 63 => match items [] p with
    | some _ => some (.showStop h)
    | _ => none
  | 64 => match items [] p with
    | some _ => some (.showResume h)
    | _ => none
  | 65 => match items [] p with
    | some _ => some (.readShowState h)
    | _ => none
  | 66 => match items [] p with
    | some _ => some (.fetchNotices h)
    | _ => none
  | 67 => match items [1, 1, 1, 4] p with
    | some [pres, node, enable, mask] =>
      some (.setNoticeNode h node (given pres 0 (flagField enable)) (given pres 1 (BitVec.ofNat 32 mask)))
    | _ => none
  | 68 => match items [] p with
    | some _ => some (.readNotices h)
    | _ => none
  | 69 => match items [] p with
    | some _ => some (.readIdentity h)
    | _ => none
  | _ => none

/-- R186 check 1: the request a kind and payload name; a kind the engine does not have, or a length that does not suit, is UNKNOWN_REQUEST. -/
def requestOf (h : Hdr) (kind : Nat) (p : List Byte) : Instr :=
  ((routeRequest h kind p).orElse fun _ => (cueListRequest h kind p).orElse fun _ => (foldbackCallRequest h kind p).orElse fun _ =>
    showRequest h kind p).getD (.unknownRequest h kind)

/-- R197: the request a WRITE-REQUEST frame carries: none where the frame is short. -/
def requestFrame (port : Port) (bs : List Byte) : Option Instr :=
  match items [2, 2, 2] (bs.take 6) with
  | some [kind, tag, len] =>
    let h : Hdr := ⟨port, BitVec.ofNat 16 tag⟩
    if 1024 < len then some (.unknownRequest h kind)
    else if bs.length < 6 + len then none
    else some (requestOf h kind ((bs.drop 6).take len))
  | _ => none

/-! ## Panel answers (12.5, R198) -/

/-- One bit of the CRC: shifted left, the polynomial 0x1021 taken out of a bit that leaves. -/
def crcBit (c : BitVec 16) : BitVec 16 := if c.msb then (c <<< 1) ^^^ 0x1021 else c <<< 1

/-- One byte enters the CRC, most significant bit first. -/
def crcByte (c : BitVec 16) (b : Byte) : BitVec 16 := Nat.repeat crcBit 8 (c ^^^ (b.setWidth 16 <<< 8))

/-- The CRC-16 of 12.5: initial value 0xFFFF, no final exclusive-OR. -/
def crc16 (l : List Byte) : BitVec 16 := l.foldl crcByte 0xFFFF

/-- The kinds of TABLE 7-4, numbered from 1, with their arguments. -/
def panelRequest (kind : Nat) (args : List Byte) : PanelReq :=
  match kind with
  | 1 => match params [4, 1] args with
    | [unit, rev] => .ident unit rev
    | _ => .other kind
  | 2 => match params [1, 1, 2] args with
    | [mix, src, v] => .nudge mix src (signed 2 v)
    | _ => .other kind
  | 3 => match params [1, 1, 2] args with
    | [mix, src, v] => .setTrim mix src (signed 2 v)
    | _ => .other kind
  | 4 => match params [1, 1, 1] args with
    | [mix, src, v] => .mute mix src (flagField v)
    | _ => .other kind
  | 5 => match params [1] args with
    | [mix] => .recall mix
    | _ => .other kind
  | 6 => match params [1] args with
    | [mix] => .readMix mix
    | _ => .other kind
  | n => .other n

/-- R198: a well-formed answer's address, and its request with its sequence where it carries one. -/
def panelFrame (bs : List Byte) : Option (Nat × Option (Nat × PanelReq)) :=
  let body := bs.take (bs.length - 2)
  if number (bs.drop (bs.length - 2)) ≠ (crc16 body).toNat then none
  else
    match body with
    | [addr, present] => if flagField present.toNat then none else some (addr.toNat, none)
    | addr :: present :: seq :: kind :: args =>
      if flagField present.toNat ∧ args.length = 6 then some (addr.toNat, some (seq.toNat, panelRequest kind.toNat args)) else none
    | _ => none

/-- The command a table word spells: no row of the table gives bits. -/
def decodeTableWord (nbits w : Nat) : Option Instr :=
  match nbits, w with
  | _, _ => none

end Sys2Proof
end

