-- ==== Sys2Proof/Config.lean ====
section
/-! DEFINITION. What the manual leaves to the part: free values (no body, so nothing can be proved of them) and the fixed capacities. -/

namespace Sys2Proof

/-- FREE VALUE (log 7). The sample a word of sample memory holds after the `epoch`-th cold reset while nothing has written it:
"its content after cold reset is not defined" (R128). -/
opaque Config.untrainedSample : Nat → Nat → Sample

/-- FREE VALUE (log 9). "The revision of the part" (R196); the manual gives no number. -/
opaque Config.revision : Nat

/-- General route records (R10). -/
def Config.generalRoutes : Nat := 944
/-- SHOWSTOP route records (R10). -/
def Config.showstopRoutes : Nat := 80
/-- Slots of the route table (0.1.1). -/
def Config.routeSlots : Nat := 1024
/-- Non-SHOWSTOP records into one destination (R10). -/
def Config.routesPerDest : Nat := 64
/-- Cues in the store (4.1). -/
def Config.cues : Nat := 2048
/-- Actions in the store (4.1). -/
def Config.actions : Nat := 8192

end Sys2Proof
end

