-- ==== Sys2Proof/Machine/State.lean ====
section
/-! DEFINITION. The state of the engine: every record, collection and setting the manual names, block by block (TABLE 0-1), as plain
data, and its value after cold reset. A `Table` lists the records of a collection by number. In the tables of records that may be
absent (routes, clips, cues, batches, calls) what is not listed is FREE, absent or empty; in every other table a number not listed
reads as the `init` record of its type, which is its value after cold reset (log 12). -/

namespace Sys2Proof.Machine

/-! ## Route table (Chapter 1) and fades -/

/-- Fade curves (TABLE 2-3). -/
inductive Curve where
  | linear | easeIn | easeOut
  deriving DecidableEq, Repr

/-- Owners (TABLE 1-4); `cue n` is CUE list n. -/
inductive Owner where
  | cue (list : Nat)
  | desk | foldback | relay | showstop
  deriving DecidableEq, Repr

/-- Who started a base fade (section 1.1). -/
inductive Origin where
  | cue (list : Nat)
  | desk | foldback | relay
  deriving DecidableEq, Repr

/-- Started-by: the cue list and take number of the running record whose action started an item (section 1.1, R84). -/
structure StartedBy where
  list : Nat
  take : Nat
  deriving DecidableEq, Repr

/-- A base fade (TABLE 1-1): from `a` to `b` over `dur` frames, `n` of them elapsed. -/
structure BaseFade where
  a : Level
  b : Level
  dur : Nat
  n : Nat
  curve : Curve
  origin : Origin
  startedBy : Option StartedBy
  deriving DecidableEq, Repr

/-- A duck fade (TABLE 1-1, R39). -/
structure DuckFade where
  a : Int
  b : Int
  dur : Nat
  n : Nat
  deriving DecidableEq, Repr

/-- The states of a record in use (TABLE 1-2); a FREE slot has no record. -/
inductive RouteState where
  | live | retiring
  deriving DecidableEq, Repr

/-- A route record in use (TABLE 1-1); its handle is its number in the table, its generation stands in `RouteTable.gens`. -/
structure Route where
  state : RouteState
  src : Nat
  dst : Nat
  owner : Owner
  base : Level
  trim : Int
  mute : Bool
  duck : Int
  set : Nat
  prot : Bool
  fade : Option BaseFade
  duckFade : Option DuckFade
  batch : Option Nat
  last : Option Level
  deriving DecidableEq, Repr

/-- The route table: the records in use, and the generation of each handle (0 where not listed). -/
structure RouteTable where
  routes : Table Route
  gens : Table Nat
  deriving DecidableEq, Repr

/-! ## Level engine (Chapter 2) -/

/-- The four flags of a status set, as flags or as a mask over them (TABLE 2-4). -/
structure Flags where
  clamp : Bool
  floor : Bool
  ceiling : Bool
  ovr : Bool
  deriving DecidableEq, Repr

/-- Clamp modes (R31). -/
inductive ClampMode where
  | limit | hold
  deriving DecidableEq, Repr

/-- Rounding controls (R36). -/
inductive Rounding where
  | towardStart | nearest
  deriving DecidableEq, Repr

/-- A level status set (TABLE 2-4). -/
structure StatusSet where
  mode : ClampMode
  rounding : Rounding
  notify : Flags
  flags : Flags
  deriving DecidableEq, Repr

def Flags.none : Flags := ⟨false, false, false, false⟩

/-- R47 -/
def StatusSet.init : StatusSet := ⟨.limit, .towardStart, Flags.none, Flags.none⟩

/-- A crosspoint of the mix matrix: the code in force at the end of the last frame and the code last written (R40, R47). -/
structure Crosspoint where
  inForce : Nat
  written : Nat
  deriving DecidableEq, Repr

def Crosspoint.init : Crosspoint := ⟨0, 0⟩

/-- The level engine. Crosspoint (source, destination) has number `src * 72 + dst`. `peaks` are the largest magnitudes of the meter
window in progress (R42), `overDsts` the destinations that saturated in the frame in progress (R41), `outputs` the 80 output slots of
the last sample period (R26), `sample` the sample number in the frame (R40). -/
structure LevelEngine where
  trims : Table Int
  masters : Table Level
  dstSets : Table Nat
  sets : Table StatusSet
  meters : Table Level
  window : Nat
  windowDue : Bool
  peaks : Table Nat
  crosspoints : Table Crosspoint
  overDsts : Table Bool
  outputs : List Int
  sample : Nat
  deriving DecidableEq, Repr

/-! ## Retirement unit (Chapter 3) -/

/-- Origin classes of a retirement key (R50). -/
inductive OriginClass where
  | cue | other
  deriving DecidableEq, Repr

/-- A batch's member: route handle, optional started-by, and its from level once the batch has begun to fade (TABLE 3-1). -/
structure Member where
  handle : Nat
  startedBy : Option StartedBy
  start : Level
  deriving DecidableEq, Repr

/-- The states GATHERING and FADING; SUSPENDED keeps the one it came from (TABLE 3-2). -/
inductive BatchPhase where
  | gathering | fading
  deriving DecidableEq, Repr

/-- A batch in use (TABLE 3-1). `phase` is the state, or the state before suspension where `suspended`. -/
structure Batch where
  dur : Nat
  curve : Curve
  cls : OriginClass
  phase : BatchPhase
  suspended : Bool
  members : List Member
  count : Nat
  window : Nat
  n : Nat
  deriving DecidableEq, Repr

/-- The retirement unit: batches in use by id, and the gather window setting. -/
structure RetirementUnit where
  batches : Table Batch
  window : Nat
  deriving DecidableEq, Repr

/-! ## Result codes (TABLE 11-3) -/

/-- Result codes in the order of TABLE 11-3. ADJUSTED is a mark (TABLE 12-2). -/
inductive Code where
  | ok | adjusted | denied | locked | keyreq | full | destfull | exists | notfound | stale | owned | reserved | invalid | range
  | busy | held | nostandby | ignored | qfull | nochange | novoice | noentry
  deriving DecidableEq, Repr

/-! ## Cue sequencer (Chapter 4) -/

/-- Triggers (TABLE 4-1). -/
inductive Trigger where
  | manual | follow | continue
  | event (id : Nat)
  deriving DecidableEq, Repr

/-- An outcome record (R86). -/
structure CueOutcome where
  qualifier : Bool
  take : Option Nat
  done : Nat
  skipped : Nat
  failed : Nat
  first : Option Code
  adjusted : Bool
  late : Bool
  deriving DecidableEq, Repr

/-- A cue (TABLE 4-1); its list and number are its place in the store. `priority` is the preload hint. -/
structure Cue where
  trigger : Trigger
  delay : Nat
  qual : Nat
  priority : Bool
  prot : Bool
  actions : List Action
  outcome : Option CueOutcome
  deriving DecidableEq, Repr

/-- The kinds of a pending trigger; EVENT keeps the chain depth of the arrival that set it (TABLE 4-2, R82). -/
inductive PendingKind where
  | follow | continue
  | event (depth : Nat)
  deriving DecidableEq, Repr

/-- The phases of a pending trigger (TABLE 4-2). -/
inductive PendingPhase where
  | awaiting (take : Nat)
  | counting (c : Nat)
  deriving DecidableEq, Repr

/-- A pending trigger with the delay of its cue (R80); `due` is the model's mark that a boundary brought it due (log 1). -/
structure Pending where
  kind : PendingKind
  phase : PendingPhase
  delay : Nat
  due : Bool
  deriving DecidableEq, Repr

/-- A running record (TABLE 4-4); `taking` marks the record of the GO in progress (model's own, log 13). -/
structure Running where
  number : Nat
  take : Nat
  fades : Nat
  late : Nat
  labels : List (Nat × Nat)
  taking : Bool
  deriving DecidableEq, Repr

/-- Cue list states (TABLE 4-3). -/
inductive ListState where
  | empty | preloading | primed | ended
  deriving DecidableEq, Repr

/-- A cue list record (TABLE 4-2). -/
structure CueList where
  state : ListState
  standby : Option Nat
  trigger : Option Pending
  running : List Running
  takes : Nat
  guard : Nat
  promptGo : Bool
  sinceGo : Option Nat
  deriving DecidableEq, Repr

/-- R88 -/
def CueList.init : CueList := ⟨.empty, none, none, [], 0, 300, false, none⟩

/-- The cue sequencer. Cue `number` of list `l` is number `l * 1000000 + number` of the store. -/
structure CueSequencer where
  cues : Table Cue
  lists : Table CueList
  deriving DecidableEq, Repr

/-! ## Condition file (Chapter 5) -/

/-- A condition link (R109). -/
structure CondLink where
  eventId : Nat
  cond : Nat
  value : Bool
  deriving DecidableEq, Repr

def CondLink.init : CondLink := ⟨0, 0, false⟩

/-- The condition file: values and preset values of C1-C31 (C0 is TRUE by R107 and stands in no table), and the eight links. -/
structure ConditionFile where
  values : Table Bool
  presets : Table Bool
  links : Table CondLink
  deriving DecidableEq, Repr

/-! ## Voice engine and sample memory port (Chapter 6) -/

/-- A clip record (TABLE 6-1). -/
structure Clip where
  addr : Nat
  len : Nat
  loop : Option (Nat × Nat)
  trim : Int
  prot : Bool
  deriving DecidableEq, Repr

/-- Voice states (TABLE 6-3). -/
inductive VoiceState where
  | free | preloading | primed | playing | pausing | paused | stopping
  deriving DecidableEq, Repr

/-- Claimants (R116). -/
inductive Claimant where
  | standby (list number label : Nat)
  | running (list take label : Nat)
  | call (slot : Nat)
  deriving DecidableEq, Repr

/-- Loop modes (R120). -/
inductive LoopMode where
  | once | vamp | cycle
  deriving DecidableEq, Repr

/-- Loop phases (R120). -/
inductive LoopPhase where
  | before | inLoop | tail
  deriving DecidableEq, Repr

/-- A voice fade (R122). -/
structure VoiceFade where
  a : Level
  b : Level
  dur : Nat
  n : Nat
  startedBy : Option StartedBy
  deriving DecidableEq, Repr

/-- A pause ramp (R124, R125); `stopping` is the state before pause: STOPPING, or PLAYING where false. -/
structure PauseRamp where
  r : Nat
  dur : Nat
  up : Bool
  stopping : Bool
  deriving DecidableEq, Repr

/-- A voice record (TABLE 6-2) with its buffer (R115). `level` is L of R124, the level without the ramp.
Model's own: `exitAt` the path count of the arrival at which the exit applies (R121), `fadeInBy` the started-by a fade-in not yet begun
will carry (R119, log 15), `atEnd` the clip end was reached (R126), `starting` and `ending` the marks that a boundary made the start
or the end due (log 1, log 22). -/
structure Voice where
  state : VoiceState
  claimant : Option Claimant
  clip : Nat
  offset : Nat
  mode : LoopMode
  phase : LoopPhase
  exitPending : Bool
  cls : Nat
  level : Level
  startLevel : Int
  fadeIn : Nat
  fade : Option VoiceFade
  ramp : Option PauseRamp
  play : Nat
  fetch : Nat
  pos : Nat
  startDue : Bool
  startAligned : Bool
  adjusted : Bool
  underruns : Nat
  inUnderrun : Bool
  buffer : List Sample
  exitAt : Option Nat
  fadeInBy : Option StartedBy
  atEnd : Bool
  starting : Bool
  ending : Bool
  deriving DecidableEq, Repr

/-- R128 -/
def Voice.init : Voice :=
  { state := .free, claimant := none, clip := 0, offset := 0, mode := .once, phase := .before, exitPending := false, cls := 3,
    level := .off, startLevel := 0, fadeIn := 0, fade := none, ramp := none, play := 0, fetch := 0, pos := 0, startDue := false,
    startAligned := false, adjusted := false, underruns := 0, inUnderrun := false, buffer := [], exitAt := none, fadeInBy := none,
    atEnd := false, starting := false, ending := false }

/-- An entry of the voice wait list: a standby label (R117). -/
structure Waiting where
  list : Nat
  number : Nat
  label : Nat
  deriving DecidableEq, Repr

/-- The voice engine. -/
structure VoiceEngine where
  clips : Table Clip
  voices : Table Voice
  waits : List Waiting
  pauseRamp : Nat
  deriving DecidableEq, Repr

/-- A WriteSamples taken and not yet written (R113). -/
structure PendingWrite where
  addr : Nat
  words : List Sample
  tag : BitVec 16
  deriving DecidableEq, Repr

/-- The transfer in progress (R114, R115): of a voice, covering the path counts `start .. start + count - 1` (`cap` a later bound set
by an EXIT, R121; `stale` where the voice was freed meanwhile), or of a WriteSamples. -/
inductive Transfer where
  | fetch (voice start count : Nat) (cap : Option Nat) (stale : Bool)
  | write (w : PendingWrite)
  deriving DecidableEq, Repr

/-- The sample memory: the words written since the `epoch`-th cold reset whose content is not the free value (log 7). -/
structure SampleMemory where
  epoch : Nat
  cells : Table Sample
  deriving DecidableEq, Repr

/-- The sample memory port: requests held (voice, class), the WriteSamples held, the transfer in progress, the class pointers, the
memory and its size in words. -/
structure SamplePort where
  requests : Table Nat
  write : Option PendingWrite
  transfer : Option Transfer
  pointers : Table Nat
  memory : SampleMemory
  size : Nat
  deriving DecidableEq, Repr

/-! ## Control ports (Chapter 11) -/

/-- An item of a payload: its width in bytes and its value (Chapter 12). -/
structure Field where
  width : Nat
  value : Int
  deriving DecidableEq, Repr

/-- What a block answers: result, marks and payload items (TABLE 12-2). -/
structure Answer where
  code : Code
  adjusted : Bool
  more : Bool
  late : Bool
  individual : Bool
  data : List Field
  deriving DecidableEq, Repr

/-- A reply in a reply queue (R187, R190). -/
structure Reply where
  tag : BitVec 16
  answer : Answer
  deriving DecidableEq, Repr

/-- One control port (Chapter 11). `out` are the bytes the engine sent in the last transaction. -/
structure PortState where
  requests : List Instr
  replies : List Reply
  dropped : Bool
  inProgress : Option (BitVec 16)
  out : List Byte
  deriving DecidableEq, Repr

def PortState.init : PortState := ⟨[], [], false, none, []⟩

/-! ## Foldback manager and panel link (Chapter 7) -/

/-- A mix record (TABLE 7-1) without the parts kept elsewhere: master and status set stand with the level engine, the panel is the
address whose enrolment entry names the mix. `adjustable` is rising. -/
structure Mix where
  ceiling : Int
  trimMin : Int
  trimMax : Int
  adjustable : List Nat
  lossRecall : Bool
  stopFeed : Bool
  deriving DecidableEq, Repr

/-- R145 -/
def Mix.init : Mix := ⟨0, -128, 64, [], false, false⟩

/-- Panel presence (TABLE 7-3). -/
inductive Presence where
  | silent | present | lost
  deriving DecidableEq, Repr

/-- A panel reply (section 7.5): sequence, result, ADJUSTED mark, payload. -/
structure PanelReply where
  seq : Nat
  code : Code
  adjusted : Bool
  data : List Field
  deriving DecidableEq, Repr

/-- A panel enrolment entry (TABLE 7-2). -/
structure Panel where
  enrolled : Bool
  mix : Option Nat
  presence : Presence
  misses : Nat
  identity : Option (Nat × Nat)
  lastSeq : Option Nat
  lastReply : Option PanelReply
  deriving DecidableEq, Repr

/-- R145 -/
def Panel.init : Panel := ⟨false, none, .silent, 0, none, none, none⟩

/-- Foldback manager and panel link: the mixes, the enrolment table, the address last polled, the poll whose slot is in progress
(R137, R138) and the bytes of the last poll frame sent. -/
structure Foldback where
  mixes : Table Mix
  panels : Table Panel
  lastPolled : Nat
  polling : Option Nat
  frame : List Byte
  deriving DecidableEq, Repr

/-! ## Relay controller (Chapter 8) -/

/-- A zone record (TABLE 8-1); `groups` has bit g set for group g. -/
structure Zone where
  enabled : Bool
  relay : Int
  call : Int
  attack : Nat
  release : Nat
  lamp : Option Nat
  groups : BitVec 8
  set : Nat
  holder : Option Nat
  deriving DecidableEq, Repr

/-- R163 -/
def Zone.init : Zone := ⟨false, 0, 0, 50, 500, none, 0, 0, none⟩

/-- What a call carries (TABLE 8-2): LIVE with a source number A0-A3, or RECORDED with a clip. -/
inductive CallKind where
  | live (input : Nat)
  | recorded (clip : Nat)
  deriving DecidableEq, Repr

/-- Where a call was placed, or what caused a stop (TABLE 8-2, TABLE 10-1). -/
inductive CallOrigin where
  | port (p : Port)
  | list (l : Nat)
  | preset (p : Nat)
  | stopLink
  deriving DecidableEq, Repr

/-- A call record (TABLE 8-2); `active` is state ACTIVE, else QUEUED. -/
structure Call where
  seq : Option Nat
  kind : CallKind
  zones : List Nat
  priority : Nat
  duck : Int
  maxWait : Nat
  wait : Nat
  origin : CallOrigin
  active : Bool
  voice : Option Nat
  started : Bool
  routes : List Nat
  deriving DecidableEq, Repr

/-- A call preset (TABLE 8-4). -/
structure CallPreset where
  kind : CallKind
  zones : BitVec 16
  groups : BitVec 8
  priority : Nat
  duck : Int
  maxWait : Nat
  place : Nat
  release : Nat
  placed : Option (Nat × Nat)
  deriving DecidableEq, Repr

/-- R163: LIVE A0, empty, 0. -/
def CallPreset.init : CallPreset := ⟨.live 96, 0, 0, 0, 0, 0, 0, 0, none⟩

/-- The relay controller: zones, calls by slot (16 the stop call), arrival order of slots, sequence counter, presets. -/
structure Relay where
  zones : Table Zone
  calls : Table Call
  order : List Nat
  seq : Nat
  presets : Table CallPreset
  deriving DecidableEq, Repr

/-! ## Event fabric (Chapter 9) -/

/-- The consumers of TABLE 9-2. -/
inductive Consumer where
  | go (list : Nat)
  | trigger (list : Nat)
  | fn (f : Nat)
  | watch (w : Nat)
  | place (p : Nat)
  | release (p : Nat)
  | cond (l : Nat)
  | stop | resume
  deriving DecidableEq, Repr

/-- An event handed over and in flight: identifier, chain depth, the number of its cause, and the consumers that have had it. -/
structure InFlight where
  id : Nat
  depth : Nat
  cause : Nat
  done : List Consumer
  deriving DecidableEq, Repr

/-- An output function (R172). -/
structure OutputFn where
  trigger : Nat
  setMask : BitVec 16
  clearMask : BitVec 16
  deriving DecidableEq, Repr

def OutputFn.init : OutputFn := ⟨0, 0, 0⟩

/-- A contact input (TABLE 9-3); true is asserted. `settleDue` is the model's mark that a boundary found the waiting change
acceptable (log 1). -/
structure ContactIn where
  raw : Bool
  settled : Bool
  rise : Bool
  fall : Bool
  settle : Nat
  limiter : Bool
  mirror : Option Nat
  sinceRise : Option Nat
  sinceFall : Option Nat
  waiting : Bool
  settleDue : Bool
  deriving DecidableEq, Repr

/-- R175 (log 6: the line released). -/
def ContactIn.init : ContactIn := ⟨false, false, false, false, 10, true, none, none, none, false, false⟩

/-- A contact output (TABLE 9-4): configured owner (FUNCTION, or HOST where false) and level. The present owner is a view (R171). -/
structure ContactOut where
  fnOwned : Bool
  high : Bool
  deriving DecidableEq, Repr

def ContactOut.init : ContactOut := ⟨false, false⟩

/-- Watch kinds (TABLE 9-5). -/
inductive WatchKind where
  | meter (src : Nat) (low high : Int)
  | contacts (mask pattern : BitVec 16)
  deriving DecidableEq, Repr

/-- Watch modes (TABLE 9-5). -/
inductive WatchMode where
  | off | once | change | continuous
  deriving DecidableEq, Repr

/-- A watch (TABLE 9-5). -/
structure Watch where
  kind : WatchKind
  trigger : Nat
  mode : WatchMode
  pair : Option (Nat × Nat)
  last : Option Bool
  deriving DecidableEq, Repr

/-- R175 -/
def Watch.init : Watch := ⟨.meter 0 (-1472) 0, 0, .off, none, none⟩

/-- The event fabric. The last four are the model's own (log 4): how many causes have begun, the number of the cause being taken, the number
of the cause that is the work of the last boundary, and the depth of the events being emitted. -/
structure EventFabric where
  goLinks : Table Nat
  stopLink : Nat
  resumeLink : Nat
  fns : Table OutputFn
  inputs : Table ContactIn
  outputs : Table ContactOut
  timers : Table Nat
  watches : Table Watch
  events : List InFlight
  causes : Nat
  cause : Nat
  boundary : Nat
  depth : Nat
  deriving DecidableEq, Repr

/-! ## Show state controller (Chapter 10) -/

/-- TABLE 10-1; `stopCause` is none while RUNNING, and the show is STOPPED exactly while `stopped`. -/
structure ShowState where
  locked : Bool
  stopped : Bool
  stopCause : Option CallOrigin
  key : Bool
  stopSource : Nat
  audLevel : Int
  foldLevel : Int
  relayLevel : Int
  audMask : BitVec 24
  deriving DecidableEq, Repr

/-! ## Notice table (Chapter 11) -/

/-- The notice kinds, in the order of TABLE 11-4. -/
inductive NoticeKind where
  | routeFull | destFull | actionFailed | lateStart | goIgnored | listEnd | voiceShort | underrun | batchDegraded | panelLost
  | panelBack | panelDenied | callExpired | callPreempted | status | chain | showStop | key | droppedRequest
  deriving DecidableEq, Repr

/-- The subject of a notice: a number, or a route's key (TABLE 11-4). -/
inductive Subject where
  | num (n : Nat)
  | key (src dst : Nat)
  deriving DecidableEq, Repr

/-- A notice kind's record (R192). -/
structure Notice where
  pending : Bool
  count : Nat
  subject : Option Subject
  deriving DecidableEq, Repr

def Notice.init : Notice := ⟨false, 0, none⟩

/-- A notice node (R193); bit k of the mask is the k-th kind of TABLE 11-4. -/
structure Node where
  enable : Bool
  mask : BitVec 19
  deriving DecidableEq, Repr

def Node.init : Node := ⟨false, 0⟩

/-- The notice table; the kinds by their place in TABLE 11-4. -/
structure NoticeTable where
  kinds : Table Notice
  nodes : Table Node
  deriving DecidableEq, Repr

/-! ## The whole -/

/-- The engine, and the queue of commands that wait (the model's own). -/
structure State where
  pending : List Instr
  ready : Bool
  portA : PortState
  portB : PortState
  rt : RouteTable
  le : LevelEngine
  ru : RetirementUnit
  cq : CueSequencer
  cf : ConditionFile
  ve : VoiceEngine
  smp : SamplePort
  fb : Foldback
  rl : Relay
  ef : EventFabric
  ss : ShowState
  nt : NoticeTable
  deriving DecidableEq, Repr

/-- Why the model stops. The manual names no machine-stopping fault; both are for commands that no sender of this part can give (log 29). -/
inductive Fault where
  /-- Raised by a command that is not a request and names a line, voice, list, timer, ... beyond the part's last. Safe: the machine stops
  where the hardware has no such unit. -/
  | noSuchUnit
  /-- Raised by START_UP_COMPLETE naming a memory that training cannot find (not a power of two 2^24..2^29, section 6.1). Safe. -/
  | noSuchMemory
  deriving DecidableEq, Repr

/-- Commands the model gives no meaning to. -/
inductive Refusal where
  /-- Raised by an arm of `exec` whose command has no meaning yet; no arm does. Safe. -/
  | notModelled (mnemonic : String)
  deriving DecidableEq, Repr

/-- The machine right after cold reset (R23, R47, R62, R88, R110, R128, R145, R163, R175, R185, R195): start-up has not completed. -/
def State.reset : State :=
  { pending := []
    ready := false
    portA := PortState.init
    portB := PortState.init
    rt := ⟨[], []⟩
    le := { trims := [], masters := [], dstSets := [], sets := [], meters := [], window := 0, windowDue := false, peaks := [],
            crosspoints := [], overDsts := [], outputs := List.replicate 80 0, sample := 0 }
    ru := ⟨[], 20⟩
    cq := ⟨[], []⟩
    cf := ⟨[], [], []⟩
    ve := ⟨[], [], [], 500⟩
    smp := ⟨[], none, none, [], ⟨0, []⟩, 0⟩
    fb := ⟨[], [], 0, none, []⟩
    rl := ⟨[], [], [], 0, []⟩
    ef := ⟨[], 0, 0, [], [], [], [], [], [], 0, 0, 0, 1⟩
    ss := ⟨false, false, none, false, 99, 0, 0, 0, 0⟩
    nt := ⟨[], []⟩ }

end Sys2Proof.Machine
end

