-- ==== Sys2Proof/Machine/Table.lean ====
section
/-! DEFINITION. Operations on sparse tables. `store` and `remove` keep the numbers rising; `write` also keeps out an entry equal to what
an unlisted number reads as, so that equal contents are equal lists. -/

namespace Sys2Proof

variable {α : Type}

/-- The record of number `k`, where listed. -/
def Table.find : Table α → Nat → Option α
  | [], _ => none
  | (j, v) :: t, k => if j = k then some v else Table.find t k

/-- Lists `v` as the record of number `k`. -/
def Table.store : Table α → Nat → α → Table α
  | [], k, v => [(k, v)]
  | (j, w) :: t, k, v => if k < j then (k, v) :: (j, w) :: t else if j = k then (k, v) :: t else (j, w) :: Table.store t k v

/-- Takes number `k` off the list. -/
def Table.remove (t : Table α) (k : Nat) : Table α := t.filter (fun p => p.1 ≠ k)

/-- The record of number `k`; `d` where it is not listed. -/
def Table.read (d : α) (t : Table α) (k : Nat) : α := (Table.find t k).getD d

/-- Makes the record of number `k` read `v`, where an unlisted number reads `d`. -/
def Table.write [DecidableEq α] (d : α) (t : Table α) (k : Nat) (v : α) : Table α :=
  if v = d then Table.remove t k else Table.store t k v

/-- `f` applied to every listed record, in a table whose unlisted numbers read `d`. -/
def Table.mapWrite [DecidableEq α] (d : α) (f : Nat → α → α) (t : Table α) : Table α :=
  (t.map (fun p => (p.1, f p.1 p.2))).filter (fun p => p.2 ≠ d)

/-- `f` applied to every record of a table of records that may be absent. -/
def Table.mapAll (f : Nat → α → α) (t : Table α) : Table α := t.map (fun p => (p.1, f p.1 p.2))

/-- The numbers of the records `p` holds of, rising. -/
def Table.keys (t : Table α) (p : α → Bool) : List Nat := (t.filter (fun q => p q.2)).map (·.1)

/-- The numbers of a table rise strictly. -/
def Table.rising : Table α → Bool
  | [] => true
  | [_] => true
  | (j, _) :: (k, v) :: t => decide (j < k) && Table.rising ((k, v) :: t)

/-- Canonical form of a table whose unlisted numbers read `d`. -/
def Table.wf [DecidableEq α] (d : α) (t : Table α) : Bool := Table.rising t && t.all (fun p => decide (p.2 ≠ d))

end Sys2Proof
end

