-- ==== Sys2Proof/Machine/Operands.lean ====
section
/-! DEFINITION. Operand forms: codes of enumerations, clamping (R17), masks, the numbering of sources and destinations (TABLE 0-3,
TABLE 0-4), payload items and their bytes (Chapter 12). -/

namespace Sys2Proof.Machine

/-- Curves by their codes (Chapter 12: EASE-OUT is 2). -/
def curveOf : Nat → Option Curve
  | 0 => some .linear
  | 1 => some .easeIn
  | 2 => some .easeOut
  | _ => none

def curveCode : Curve → Nat
  | .linear => 0
  | .easeIn => 1
  | .easeOut => 2

/-- Owners by their codes (Chapter 12: DESK 4, SHOWSTOP 7). -/
def ownerOf (c : Nat) : Option Owner :=
  if c < 4 then some (.cue c) else if c = 4 then some .desk else if c = 5 then some .foldback else if c = 6 then some .relay
  else if c = 7 then some .showstop else none

def ownerCode : Owner → Nat
  | .cue l => l
  | .desk => 4
  | .foldback => 5
  | .relay => 6
  | .showstop => 7

def originCode : Origin → Nat
  | .cue l => l
  | .desk => 4
  | .foldback => 5
  | .relay => 6

/-- A curve argument is unknown (INVALID wherever a curve is given). -/
def badFade : Option FadeArg → Bool
  | none => false
  | some f => (curveOf f.curve).isNone

/-- The longest fade, 600,000 ms (R17). -/
def maxFade : Nat := 600000

/-- A fade with its duration clamped (R17); the curve has been checked. -/
def fadeArg (f : FadeArg) : Nat × Curve := (min f.dur maxFade, (curveOf f.curve).getD .linear)

/-- A base level or master clamped into -1024..+192; OFF stays OFF (R17, R28). -/
def clampLevel : Level → Level
  | .off => .off
  | .step n => .step (clampInt (-1024) 192 n)

/-- `clampLevel` changed the level, or the fade's duration exceeds its range: the ADJUSTED mark of R17. -/
def adjustedLevel (l : Option Level) (f : Option FadeArg) : Bool :=
  (match l with | some v => clampLevel v ≠ v | none => false) || (match f with | some x => maxFade < x.dur | none => false)

/-- The numbers below `n` whose bit is set. -/
def bits (n : Nat) {w : Nat} (m : BitVec w) : List Nat := (List.range n).filter (fun i => m.getLsbD i)

/-- A mask of `w` bits from the numbers it names. -/
def maskOf (w : Nat) (l : List Nat) : BitVec w := BitVec.ofNat w ((List.range w).foldr (fun i m => 2 * m + (if i ∈ l then 1 else 0)) 0)

/-- Flags of a one-byte flag mask: bit 0 CLAMP, 1 FLOOR, 2 CEILING, 3 OVER (Chapter 12). -/
def flagsOf (m : BitVec 8) : Flags := ⟨m.getLsbD 0, m.getLsbD 1, m.getLsbD 2, m.getLsbD 3⟩

def flagsCode (f : Flags) : Nat := f.clamp.toNat + 2 * f.floor.toNat + 4 * f.ceiling.toNat + 8 * f.ovr.toNat

/-- TABLE 0-3: V0-V31 are 64-95. -/
def isVoice (src : Nat) : Bool := 64 ≤ src && src < 96
/-- TABLE 0-3: A0-A3 are 96-99. -/
def isAnnounce (src : Nat) : Bool := 96 ≤ src && src < 100
/-- TABLE 0-4: F0-F31 are 24-55. -/
def isFoldDst (d : Nat) : Bool := 24 ≤ d && d < 56
/-- TABLE 0-4: D0-D14 are 56-70. -/
def isRelayDst (d : Nat) : Bool := 56 ≤ d && d < 71
/-- The source PGMT (TABLE 0-3). -/
def pgmt : Nat := 100
/-- The destination PGM (TABLE 0-4). -/
def pgm : Nat := 71
/-- A source number that exists. -/
def srcOk (s : Nat) : Bool := s ≤ 100
/-- A destination number that exists. -/
def dstOk (d : Nat) : Bool := d < 72
/-- Z0-Z23 and PGM: the destinations of cue lists and DESK (TABLE 1-4). -/
def generalDst (d : Nat) : Bool := d < 24 || d = pgm

/-! ## Payload items -/

def u1 (n : Nat) : Field := ⟨1, n⟩
def u2 (n : Nat) : Field := ⟨2, n⟩
def u3 (n : Nat) : Field := ⟨3, n⟩
def u4 (n : Nat) : Field := ⟨4, n⟩
def s1 (n : Int) : Field := ⟨1, n⟩
def s2 (n : Int) : Field := ⟨2, n⟩
/-- A level: OFF is 0x8000 (Chapter 12). -/
def lev : Level → Field
  | .off => ⟨2, -32768⟩
  | .step n => ⟨2, n⟩
def flag (b : Bool) : Field := ⟨1, b.toNat⟩
/-- "none" is 0xFF in one byte, 0xFFFF in two (Chapter 12); 0xFFFFFFFF in four (log 19). -/
def o1 (o : Option Nat) : Field := u1 (o.getD 0xFF)
def o2 (o : Option Nat) : Field := u2 (o.getD 0xFFFF)
def o4 (o : Option Nat) : Field := u4 (o.getD 0xFFFFFFFF)

/-- The `w` bytes of `v`, most significant first, negative values in two's complement (Chapter 12). -/
def bytesOf : Nat → Int → List Byte
  | 0, _ => []
  | w + 1, v => BitVec.ofInt 8 (v / (256 ^ w : Nat)) :: bytesOf w v

/-- The bytes of a list of items. -/
def encodeFields (l : List Field) : List Byte := l.flatMap (fun f => bytesOf f.width f.value)

/-! ## Answers -/

/-- A refusal with its code. -/
def refuse (c : Code) : Answer := ⟨c, false, false, false, false, []⟩
/-- OK with payload items. -/
def okWith (data : List Field) : Answer := ⟨.ok, false, false, false, false, data⟩
/-- OK with the ADJUSTED mark where `adj`. -/
def okAdj (adj : Bool) (data : List Field) : Answer := ⟨.ok, adj, false, false, false, data⟩

end Sys2Proof.Machine
end

