-- ==== Sys2Proof/Machine/Ops.lean ====
section
/-! DEFINITION. The shared operations over the state: notices (R192), events (R164, R165), conditions (R107), the lock (R178), and
reading and writing the records of the blocks. The state is every operation's last argument. -/

namespace Sys2Proof.Machine

/-- What a command answers. -/
abbrev Result := Host.Outcome State Fault Refusal

/-! ## Notices -/

/-- The place of a kind in TABLE 11-4. -/
def noticeIndex (k : NoticeKind) : Nat := k.ctorIdx

/-- R192: pending, count one higher up to 255, last subject. -/
def raisedNotice (subj : Subject) (n : Notice) : Notice := ⟨true, min (n.count + 1) 255, some subj⟩

/-- R192 on the table. -/
def raiseIn (k : NoticeKind) (subj : Subject) (nt : NoticeTable) : NoticeTable :=
  { nt with kinds := nt.kinds.write Notice.init (noticeIndex k) (raisedNotice subj (nt.kinds.read Notice.init (noticeIndex k))) }

/-- A notice is raised (R192). -/
def raise (k : NoticeKind) (subj : Subject) (s : State) : State := { s with nt := raiseIn k subj s.nt }

/-- The record of a notice kind. -/
def noticeOf (s : State) (k : NoticeKind) : Notice := s.nt.kinds.read Notice.init (noticeIndex k)

/-- R193: some enabled node selects a pending kind. -/
def notify (s : State) : Bool :=
  (List.range 4).any (fun n => (s.nt.nodes.read Node.init n).enable
    && (bits 19 (s.nt.nodes.read Node.init n).mask).any (fun k => (s.nt.kinds.read Notice.init k).pending))

/-! ## Lists, cues and the started-by accounts' records -/

def listOf (s : State) (l : Nat) : CueList := s.cq.lists.read CueList.init l

/-- Replaces list `l`'s record by `f` of it. -/
def updList (l : Nat) (f : CueList → CueList) (s : State) : State :=
  { s with cq := { s.cq with lists := s.cq.lists.write CueList.init l (f (s.cq.lists.read CueList.init l)) } }

/-- The number of a cue in the store. -/
def cueKey (l number : Nat) : Nat := l * 1000000 + number

def cueOf (s : State) (l number : Nat) : Option Cue := s.cq.cues.find (cueKey l number)

/-- The standby cue of a list, with its number. -/
def standbyCue (s : State) (l : Nat) : Option (Nat × Cue) :=
  match (listOf s l).standby with
  | none => none
  | some n => (cueOf s l n).map (fun c => (n, c))

/-! ## Events -/

/-- R164: an event is handed over with the depth of its cause; one whose depth would be 5 is dropped and raises CHAIN. -/
def emit (id : Nat) (s : State) : State :=
  { s with
    ef := { s.ef with events := if s.ef.depth < 5 then s.ef.events ++ [⟨id, s.ef.depth, s.ef.cause, []⟩] else s.ef.events }
    nt := if s.ef.depth < 5 then s.nt else raiseIn .chain (.num id) s.nt }

/-! ## Conditions -/

/-- R107: C0 is TRUE. -/
def condOf (s : State) (c : Nat) : Bool := if c = 0 then true else s.cf.values.read false c

/-- R107: a write to C0 is ignored; there is no condition above C31. -/
def writeCond (c : Nat) (v : Bool) (s : State) : State :=
  { s with cf := { s.cf with values := if c = 0 ∨ 31 < c then s.cf.values else s.cf.values.write false c v } }

/-- R107: C0's preset value is TRUE. -/
def presetOf (s : State) (c : Nat) : Bool := if c = 0 then true else s.cf.presets.read false c

/-! ## Records by number -/

def setOf (s : State) (n : Nat) : StatusSet := s.le.sets.read StatusSet.init n
def updSet (n : Nat) (f : StatusSet → StatusSet) (s : State) : State :=
  { s with le := { s.le with sets := s.le.sets.write StatusSet.init n (f (s.le.sets.read StatusSet.init n)) } }

def voiceOf (s : State) (v : Nat) : Voice := s.ve.voices.read Voice.init v
def updVoice (v : Nat) (f : Voice → Voice) (s : State) : State :=
  { s with ve := { s.ve with voices := s.ve.voices.write Voice.init v (f (s.ve.voices.read Voice.init v)) } }

def mixOf (s : State) (m : Nat) : Mix := s.fb.mixes.read Mix.init m
def updMix (m : Nat) (f : Mix → Mix) (s : State) : State :=
  { s with fb := { s.fb with mixes := s.fb.mixes.write Mix.init m (f (s.fb.mixes.read Mix.init m)) } }

def panelOf (s : State) (a : Nat) : Panel := s.fb.panels.read Panel.init a
def updPanel (a : Nat) (f : Panel → Panel) (s : State) : State :=
  { s with fb := { s.fb with panels := s.fb.panels.write Panel.init a (f (s.fb.panels.read Panel.init a)) } }

def zoneOf (s : State) (z : Nat) : Zone := s.rl.zones.read Zone.init z
def updZone (z : Nat) (f : Zone → Zone) (s : State) : State :=
  { s with rl := { s.rl with zones := s.rl.zones.write Zone.init z (f (s.rl.zones.read Zone.init z)) } }

def callOf (s : State) (c : Nat) : Option Call := s.rl.calls.find c
def updCall (c : Nat) (f : Call → Call) (s : State) : State :=
  { s with rl := { s.rl with calls := s.rl.calls.mapAll (fun k x => if k = c then f x else x) } }

def callPresetOf (s : State) (p : Nat) : CallPreset := s.rl.presets.read CallPreset.init p
def updCallPreset (p : Nat) (f : CallPreset → CallPreset) (s : State) : State :=
  { s with rl := { s.rl with presets := s.rl.presets.write CallPreset.init p (f (s.rl.presets.read CallPreset.init p)) } }

def inputOf (s : State) (i : Nat) : ContactIn := s.ef.inputs.read ContactIn.init i
def updInput (i : Nat) (f : ContactIn → ContactIn) (s : State) : State :=
  { s with ef := { s.ef with inputs := s.ef.inputs.write ContactIn.init i (f (s.ef.inputs.read ContactIn.init i)) } }

def outputOf (s : State) (l : Nat) : ContactOut := s.ef.outputs.read ContactOut.init l
def updOutput (l : Nat) (f : ContactOut → ContactOut) (s : State) : State :=
  { s with ef := { s.ef with outputs := s.ef.outputs.write ContactOut.init l (f (s.ef.outputs.read ContactOut.init l)) } }

def watchOf (s : State) (w : Nat) : Watch := s.ef.watches.read Watch.init w
def updWatch (w : Nat) (f : Watch → Watch) (s : State) : State :=
  { s with ef := { s.ef with watches := s.ef.watches.write Watch.init w (f (s.ef.watches.read Watch.init w)) } }

def timerOf (s : State) (t : Nat) : Nat := s.ef.timers.read 0 t
def setTimer (t n : Nat) (s : State) : State := { s with ef := { s.ef with timers := s.ef.timers.write 0 t n } }

def clipOf (s : State) (c : Nat) : Option Clip := s.ve.clips.find c

def routeAt (s : State) (h : Nat) : Option Route := s.rt.routes.find h
def genOf (s : State) (h : Nat) : Nat := s.rt.gens.read 0 h
/-- Replaces the record in slot `h`, where one is in use, by `f` of it. -/
def updRoute (h : Nat) (f : Route → Route) (s : State) : State :=
  { s with rt := { s.rt with routes := s.rt.routes.mapAll (fun k r => if k = h then f r else r) } }

/-- The key index (R6): the handle that holds the key. -/
def findKey (s : State) (src dst : Nat) : Option Nat :=
  (s.rt.routes.find? (fun p => p.2.src == src && p.2.dst == dst)).map (·.1)

def masterOf (s : State) (d : Nat) : Level := s.le.masters.read (.step 0) d
/-- The status set a destination names (R28, R41). -/
def dstSet (s : State) (d : Nat) : Nat := s.le.dstSets.read 0 d

/-- R178: locked, and the rehearsal key released. -/
def guarded (s : State) : Bool := s.ss.locked && !s.ss.key

/-- The panel bound to a mix: the enrolled address whose entry names it (TABLE 7-1, R136). -/
def panelOfMix (s : State) (m : Nat) : Option Nat :=
  (List.range 33).find? (fun a => (panelOf s a).enrolled && (panelOf s a).mix == some m)

/-- R171: some zone names the line as its lamp. -/
def isLamp (s : State) (line : Nat) : Bool := (List.range 15).any (fun z => (zoneOf s z).lamp == some line)

/-- `f` for each number of a list in turn. -/
def forEach (l : List Nat) (f : Nat → State → State) (s : State) : State := l.foldl (fun s x => f x s) s

/-! ## Contact outputs -/

/-- R102, R172: the level a line takes: set alone high, clear alone low, both the opposite, neither as it was. -/
def drivenLevel (setBit clearBit high : Bool) : Bool :=
  if setBit && clearBit then !high else if setBit then true else if clearBit then false else high

/-- R102, R172: set and clear masks act on the FUNCTION lines alone. -/
def driveFn (setMask clearMask : BitVec 16) (s : State) : State :=
  forEach (List.range 16) (fun l s =>
    if (outputOf s l).fnOwned && !isLamp s l then
      updOutput l (fun o => { o with high := drivenLevel (setMask.getLsbD l) (clearMask.getLsbD l) o.high }) s
    else s) s

/-- R149: every lamp line stands high exactly where some zone that names it is held. -/
def refreshLamps (s : State) : State :=
  forEach (List.range 16) (fun l s =>
    if isLamp s l then
      updOutput l (fun o => { o with high := (List.range 15).any (fun z => (zoneOf s z).lamp == some l && (zoneOf s z).holder.isSome) }) s
    else s) s

end Sys2Proof.Machine
end

