-- ==== Sys2Proof/Machine/Levels.lean ====
section
/-! DEFINITION. Level arithmetic: fade offsets and rounding (R35, R36), the current base level (R18), duck and voice fades (R39, R122),
the pause ramp's level (R124), gain codes (R33) and meters (R42). -/

namespace Sys2Proof.Machine

/-- -1024 stands in for OFF in fade arithmetic (R35). -/
def levelNum : Level → Int
  | .off => -1024
  | .step n => n

/-- R36: an exact rational offset `num / den` rounded: truncated toward zero, or to nearest with halves away from zero. -/
def roundOffset (m : Rounding) (num : Int) (den : Nat) : Int :=
  match m with
  | .towardStart => num.tdiv den
  | .nearest => if 0 ≤ num then (2 * num + den) / (2 * den) else -((2 * -num + den) / (2 * den))

/-- TABLE 2-3: the offset at `n` of `dur` as a numerator over `offsetDen`. -/
def offsetNum (c : Curve) (delta : Int) (dur n : Nat) : Int :=
  match c with
  | .linear => delta * n
  | .easeIn => delta * (n * n)
  | .easeOut => delta * (dur * dur) - delta * ((dur - n) * (dur - n))

/-- TABLE 2-3: the denominator of `offsetNum`. -/
def offsetDen (c : Curve) (dur : Nat) : Nat :=
  match c with
  | .linear => dur
  | .easeIn => dur * dur
  | .easeOut => dur * dur

/-- R35: the level of a running fade at `n`: from plus the rounded offset. -/
def fadePoint (c : Curve) (m : Rounding) (a b : Level) (dur n : Nat) : Int :=
  levelNum a + roundOffset m (offsetNum c (levelNum b - levelNum a) dur n) (offsetDen c dur)

/-- A fade has reached its duration at some boundary (R37: one of 0 ms completes at its first boundary). -/
def reached (dur n : Nat) : Bool := 0 < n && dur ≤ n

/-- R35, R37: the level a fade gives at `n`: the from value itself before its first boundary, the target exactly once reached. -/
def fadeLevel (c : Curve) (m : Rounding) (a b : Level) (dur n : Nat) : Level :=
  if n = 0 then a else if dur ≤ n then b else .step (fadePoint c m a b dur n)

/-- R18: the current base level of a record: the value the level engine last used, which a fade leaves in the base at every boundary (R34);
before a fade's first boundary its from value, with -1024 for OFF. -/
def currentBase (r : Route) : Level :=
  match r.fade with
  | none => r.base
  | some f => if f.n = 0 then .step (levelNum f.a) else r.base

/-- One more elapsed frame, once and not beyond the boundary that reached the duration (log 1). -/
def advance (dur n : Nat) : Nat := if reached dur n then n else n + 1

/-- R39: the duck at `n`. -/
def duckAt (f : DuckFade) : Int :=
  if f.n = 0 then f.a else if f.dur ≤ f.n then f.b else f.a + ((f.b - f.a) * f.n).tdiv f.dur

/-- R122: the voice level at `n` of a voice fade: LINEAR, TOWARD-START. -/
def voiceFadeLevel (f : VoiceFade) : Level := fadeLevel .linear .towardStart f.a f.b f.dur f.n

/-- R124: the level under a pause ramp standing at `r` of `dur`, from the level `l` without it. -/
def rampLevel (l : Level) (p : PauseRamp) : Level :=
  match l with
  | .off => .off
  | .step n => if p.r = 0 then .step n else if p.dur ≤ p.r then .off else .step (n + ((-1024 - n) * p.r).tdiv p.dur)

/-- R119: the voice level in the first frame of a voice that starts at this boundary. -/
def firstLevel (v : Voice) : Level :=
  if v.fadeIn = 0 then .step v.startLevel else fadeLevel .linear .towardStart .off (.step v.startLevel) v.fadeIn 1

/-- R29, R122, R124: the voice level the voice gives for the frame. -/
def frameLevel (v : Voice) : Level :=
  let l := if v.starting then firstLevel v else v.level
  match v.ramp with
  | none => l
  | some p => rampLevel l p

/-- R33: the gain code of an effective level. -/
def gainCode : Level → Nat
  | .off => 0
  | .step e =>
    let k := e.fdiv 64
    let m := (e - 64 * k).toNat
    let x := 14 + k
    if 0 ≤ x then (64 + m) * 2 ^ x.toNat else
      let d := 2 ^ (-x).toNat
      (2 * (64 + m) + d) / (2 * d)

/-- R42: the meter of a peak magnitude. -/
def meterOf (p : Nat) : Level :=
  if p = 0 then .off else
    let e := Nat.log2 p
    .step (64 * ((e : Int) - 23) + (((p - 2 ^ e) * 64 / 2 ^ e : Nat) : Int))

/-- R42: the magnitude of a sample; that of -8,388,608 is 8,388,607. -/
def magnitude (x : Int) : Nat := min x.natAbs 8388607

end Sys2Proof.Machine
end

