-- ==== Sys2Proof/Machine/Flags.lean ====
section
/-! DEFINITION. The effective level and the flags it sets (R29 to R32), and the flags of a status set (R45, R46). -/

namespace Sys2Proof.Machine

/-- An effective level with the flags its computing sets in the route's status set. -/
structure Effective where
  level : Level
  flags : Flags
  deriving DecidableEq, Repr

/-- R27, R29: the S term of a source: its trim, or clip trim plus voice level for a voice. -/
def sourceTerm (s : State) (src : Nat) : Level :=
  if isVoice src then
    let v := voiceOf s (src - 64)
    match frameLevel v with
    | .off => .off
    | .step n => .step (n + (match clipOf s v.clip with | some c => c.trim | none => 0))
  else .step (s.le.trims.read 0 src)

/-- R31: the upper bound of a route into `dst`. -/
def boundOf (s : State) (dst : Nat) : Int := if isFoldDst dst then (mixOf s (dst - 24)).ceiling else 192

/-- R31, R32: a sum bounded. -/
def boundSum (mode : ClampMode) (bound : Int) (last : Option Level) (sum : Int) : Effective :=
  if bound < sum then
    let e := match mode, last with
      | .hold, some (.step l) => if l ≤ bound then .step l else .step bound
      | _, _ => Level.step bound
    ⟨e, ⟨192 < sum, false, bound < 192 && sum ≤ 192, false⟩⟩
  else if sum < -1024 then ⟨.off, ⟨false, true, false, false⟩⟩
  else ⟨.step sum, Flags.none⟩

/-- R30: the effective level of a record whose base and duck stand as this boundary left them. -/
def effectiveOf (s : State) (r : Route) : Effective :=
  match sourceTerm s r.src, r.base, masterOf s r.dst, r.mute with
  | .step a, .step b, .step m, false =>
    boundSum (setOf s r.set).mode (boundOf s r.dst) r.last (a + b + r.trim + r.duck + m)
  | _, _, _, _ => ⟨.off, Flags.none⟩

def Flags.or (a b : Flags) : Flags := ⟨a.clamp || b.clamp, a.floor || b.floor, a.ceiling || b.ceiling, a.ovr || b.ovr⟩
def Flags.and (a b : Flags) : Flags := ⟨a.clamp && b.clamp, a.floor && b.floor, a.ceiling && b.ceiling, a.ovr && b.ovr⟩
def Flags.not (a : Flags) : Flags := ⟨!a.clamp, !a.floor, !a.ceiling, !a.ovr⟩
def Flags.any (a : Flags) : Bool := a.clamp || a.floor || a.ceiling || a.ovr

/-- R46: the flags in the mask are cleared. -/
def clearFlags (set : Nat) (mask : Flags) (s : State) : State :=
  updSet set (fun x => { x with flags := x.flags.and mask.not }) s

/-- R45: the flags met at one boundary are set in a set, and one STATUS is raised where a newly set flag has its notify bit on. -/
def meetFlags (set : Nat) (met : Flags) (s : State) : State :=
  let x := setOf s set
  let s' := updSet set (fun x => { x with flags := x.flags.or met }) s
  if ((met.and x.flags.not).and x.notify).any then raise .status (.num set) s' else s'

end Sys2Proof.Machine
end

