-- ==== Sys2Proof/Machine/Running.lean ====
section
/-! DEFINITION. Running records: their counts (R84), the completion test and completion (R85), and a list's state (R68). -/

namespace Sys2Proof.Machine

/-- The running record of a list with a take number. -/
def runningOf (s : State) (l take : Nat) : Option Running := (listOf s l).running.find? (fun r => r.take == take)

/-- Replaces the running record with that take number, where present, by `f` of it. -/
def updRunning (l take : Nat) (f : Running → Running) (s : State) : State :=
  updList l (fun q => { q with running := q.running.map (fun r => if r.take = take then f r else r) }) s

/-- R81: a FOLLOW trigger awaiting the take passes to COUNTING. -/
def followTaken (take : Nat) (p : Pending) : Pending :=
  if p.kind = .follow ∧ p.phase = .awaiting take then { p with phase := .counting 0, due := false } else p

/-- R85: a running record completes: it leaves the set, cue-complete is emitted, a FOLLOW trigger awaiting it counts. -/
def completeRunning (l take : Nat) (s : State) : State :=
  s |> updList l (fun q => { q with running := q.running.filter (fun r => r.take ≠ take) })
    |> emit (136 + l)
    |> updList l (fun q => { q with trigger := q.trigger.map (followTaken take) })

/-- R85: the completion test. The record of the GO in progress is tested at the GO's end only (R77 step 5, log 13). -/
def completionTest (l take : Nat) (s : State) : State :=
  match runningOf s l take with
  | some r => if r.fades = 0 ∧ r.late = 0 ∧ r.taking = false then completeRunning l take s else s
  | none => s

/-- R84: a counted item ends or leaves the account: the count falls by one and the test is applied. Discarded where no such record is
present. -/
def settle (b : Option StartedBy) (s : State) : State :=
  match b with
  | none => s
  | some b => s |> updRunning b.list b.take (fun r => { r with fades := r.fades - 1 }) |> completionTest b.list b.take

/-- R84: an action starts a counted item. -/
def countFade (b : StartedBy) (s : State) : State := updRunning b.list b.take (fun r => { r with fades := r.fades + 1 }) s

/-- R79: a late start is pending on a running record. -/
def countLate (b : StartedBy) (s : State) : State := updRunning b.list b.take (fun r => { r with late := r.late + 1 }) s

/-- R79: a pending late start is settled, and the test applied. -/
def settleLate (l take : Nat) (s : State) : State :=
  s |> updRunning l take (fun r => { r with late := r.late - 1 }) |> completionTest l take

/-- The voices claimed by the labels of list `l`'s standby `number`, rising. -/
def standbyVoices (s : State) (l number : Nat) : List Nat :=
  s.ve.voices.keys (fun v => match v.claimant with | some (.standby l' n _) => l' == l && n == number | _ => false)

/-- R68: every voice claimed by the standby's labels is PRIMED and no label waits. -/
def standbyReady (s : State) (l number : Nat) : Bool :=
  (standbyVoices s l number).all (fun v => decide ((voiceOf s v).state = .primed))
    && !(s.ve.waits.any (fun w => w.list == l && w.number == number))

/-- R68: a PRELOADING list whose standby is ready becomes PRIMED and emits its standby-primed event. -/
def reassess (l : Nat) (s : State) : State :=
  match (listOf s l).standby with
  | none => s
  | some n =>
    if (listOf s l).state = .preloading ∧ standbyReady s l n then
      s |> updList l (fun q => { q with state := .primed }) |> emit (132 + l)
    else s

end Sys2Proof.Machine
end

