-- ==== Sys2Proof/Machine/RouteOps.lean ====
section
/-! DEFINITION. Operations on the route table and the retirement unit: creation (R1, R2, R11), release (R5), takeover (R19),
reclaim (R20), adoption (R21), and retirement (R4, R50 to R52, R57). -/

namespace Sys2Proof.Machine

/-! ## Capacities (R10): views of the records in use -/

def generalCount (s : State) : Nat := (s.rt.routes.filter (fun p => p.2.owner ≠ .showstop)).length
def showstopCount (s : State) : Nat := (s.rt.routes.filter (fun p => p.2.owner = .showstop)).length
def destCount (s : State) (d : Nat) : Nat := (s.rt.routes.filter (fun p => p.2.owner ≠ .showstop ∧ p.2.dst = d)).length

/-- R11: the refusal of a creation by an owner other than SHOWSTOP, with its notice. -/
def capacityRefusal (s : State) (src dst : Nat) : Option (Code × NoticeKind × Subject) :=
  if Config.generalRoutes ≤ generalCount s then some (.full, .routeFull, .key src dst)
  else if Config.routesPerDest ≤ destCount s dst then some (.destfull, .destFull, .num dst)
  else none

/-- R2: the lowest FREE handle. -/
def freeHandle (s : State) : Option Nat := (List.range Config.routeSlots).find? (fun h => (routeAt s h).isNone)

/-- What a poster supplies for a creation (R1). -/
structure NewRoute where
  src : Nat
  dst : Nat
  owner : Owner
  level : Level
  fade : Option (Nat × Curve)
  origin : Origin
  startedBy : Option StartedBy
  set : Nat
  prot : Bool

/-- R1: the fields of a record at its creation. -/
def newRoute (r : NewRoute) : Route :=
  { state := .live, src := r.src, dst := r.dst, owner := r.owner
    base := if r.fade.isSome then .off else r.level
    trim := 0, mute := false, duck := 0, set := r.set, prot := r.prot
    fade := r.fade.map (fun f => ⟨.off, r.level, f.1, 0, f.2, r.origin, r.startedBy⟩)
    duckFade := none, batch := none, last := none }

/-- R1, R2: a record is created in the lowest FREE handle; its generation is the slot's. -/
def createRoute (r : NewRoute) (s : State) : State × Nat :=
  match freeHandle s with
  | some h => ({ s with rt := { s.rt with routes := s.rt.routes.store h (newRoute r) } }, h)
  | none => (s, Config.routeSlots)

/-! ## Batches -/

/-- R57: the entry of `h` leaves batch `b` and its started-by is settled; a batch left empty is freed. -/
def leaveBatch (b h : Nat) (s : State) : State :=
  match s.ru.batches.find b with
  | none => s
  | some x =>
    let left := x.members.filter (fun m => m.handle ≠ h)
    let s1 := { s with ru := { s.ru with batches :=
      if left.isEmpty then s.ru.batches.remove b else s.ru.batches.store b { x with members := left } } }
    match x.members.find? (fun m => m.handle == h) with
    | some m => settle m.startedBy s1
    | none => s1

/-- The record leaves its batch, where it is in one. -/
def leaveAnyBatch (h : Nat) (s : State) : State :=
  match routeAt s h with
  | some r => (match r.batch with | some b => leaveBatch b h s | none => s)
  | none => s

/-- The record's base fade is taken away and its started-by settled (R4, R19, R20). -/
def dropFade (h : Nat) (s : State) : State :=
  match routeAt s h with
  | some r => (match r.fade with
    | some f => s |> updRoute h (fun r => { r with fade := none }) |> settle f.startedBy
    | none => s)
  | none => s

/-- R5: a record in use is released: fade settled, batch left, key and counts gone with the record, generation advanced, slot FREE. -/
def releaseRoute (h : Nat) (s : State) : State :=
  match routeAt s h with
  | none => s
  | some _ =>
    let s := s |> dropFade h |> leaveAnyBatch h
    { s with rt := { routes := s.rt.routes.remove h, gens := s.rt.gens.write 0 h ((s.rt.gens.read 0 h + 1) % 65536) } }

/-- Every record `p` holds of is released, in rising handle order (log 39). -/
def releaseWhere (p : Route → Bool) (s : State) : State := forEach (s.rt.routes.keys p) releaseRoute s

/-! ## Base, reclaim, adoption -/

/-- R19: the base of the record in slot `h` is set: by a fade from its current base level, or at once. -/
def setBase (h : Nat) (level : Level) (fade : Option (Nat × Curve)) (origin : Origin) (starter : Option StartedBy) (s : State) : State :=
  match routeAt s h with
  | none => s
  | some r =>
    let now := currentBase r
    let s := dropFade h s
    match fade with
    | some f => updRoute h (fun r => { r with
        base := .step (levelNum now), fade := some ⟨.step (levelNum now), level, f.1, 0, f.2, origin, starter⟩ }) s
    | none => updRoute h (fun r => { r with base := level }) s

/-- R20: a RETIRING record is reclaimed: out of its batch or its own fade, LIVE, at the level it had reached. -/
def reclaim (h : Nat) (s : State) : State :=
  match routeAt s h with
  | none => s
  | some r =>
    if r.state = .retiring then
      s |> updRoute h (fun x => { x with base := currentBase r })
        |> dropFade h |> leaveAnyBatch h
        |> updRoute h (fun x => { x with state := .live, batch := none })
    else s

/-- The status set and protected flag replace the record's where given (R13, R94). -/
def giveSetProt (h : Nat) (set : Option Nat) (prot : Option Bool) (s : State) : State :=
  updRoute h (fun r => { r with set := set.getD r.set, prot := prot.getD r.prot }) s

/-- The origin an adopter hands a running fade over to (R21). -/
def originOf : Owner → Origin
  | .cue l => .cue l
  | .desk => .desk
  | .foldback => .foldback
  | _ => .relay

/-- R21: the record changes owner; a running fade's origin becomes the adopter's and its started-by is settled and cleared. -/
def adopt (h : Nat) (owner : Owner) (s : State) : State :=
  match routeAt s h with
  | none => s
  | some r =>
    s |> updRoute h (fun x => { x with owner := owner
                                       fade := x.fade.map (fun f => { f with origin := originOf owner, startedBy := none }) })
      |> settle (r.fade.bind (·.startedBy))

/-- A cue list's owner class. -/
def ownedByCue (o : Owner) : Bool := match o with | .cue _ => true | _ => false

/-! ## Retirement -/

/-- A retirement as the unit receives it (R50): the key, and the origin a degraded fade takes (R52). -/
structure Retirement where
  dur : Nat
  curve : Curve
  cls : OriginClass
  origin : Origin
  startedBy : Option StartedBy

/-- R51: the lowest GATHERING batch with the retirement's key and room. -/
def joinable (s : State) (q : Retirement) : Option Nat :=
  (List.range 8).find? (fun b => match s.ru.batches.find b with
    | some x => x.phase == .gathering && !x.suspended && x.dur == q.dur && x.curve == q.curve && x.cls == q.cls && x.members.length < 256
    | none => false)

/-- R51: the lowest FREE batch. -/
def freeBatch (s : State) : Option Nat := (List.range 8).find? (fun b => (s.ru.batches.find b).isNone)

/-- R4: the record becomes RETIRING in batch `b`, at its current base level. -/
def enterBatch (h b : Nat) (s : State) : State :=
  match routeAt s h with
  | none => s
  | some r =>
    let now := currentBase r
    s |> dropFade h |> updRoute h (fun x => { x with state := .retiring, batch := some b, base := now })

/-- R51, R52: a LIVE record is placed in a batch, or degraded; answers the batch's id, or none where degraded. -/
def retireRoute (h : Nat) (q : Retirement) (s : State) : State × Option Nat :=
  match joinable s q with
  | some b =>
    let s := enterBatch h b s
    ({ s with ru := { s.ru with batches := s.ru.batches.mapAll (fun k x =>
        if k = b then { x with members := x.members ++ [⟨h, q.startedBy, .off⟩] } else x) } }, some b)
  | none =>
    match freeBatch s with
    | some b =>
      let s := enterBatch h b s
      let x : Batch := ⟨q.dur, q.curve, q.cls, .gathering, false, [⟨h, q.startedBy, .off⟩], 0, s.ru.window, 0⟩
      ({ s with ru := { s.ru with batches := s.ru.batches.store b x } }, some b)
    | none =>
      match routeAt s h with
      | none => (s, none)
      | some r =>
        (s |> setBase h .off (some (q.dur, q.curve)) q.origin q.startedBy
           |> updRoute h (fun x => { x with state := .retiring, batch := none })
           |> raise .batchDegraded (.key r.src r.dst), none)

end Sys2Proof.Machine
end

