-- ==== Sys2Proof/Machine/SampleMemory.lean ====
section
/-! DEFINITION. The sample memory (section 6.1): one 24-bit sample a word, addresses rising, no entry equal to what the word reads as when
nothing has written it since the last cold reset (a free value, log 7). -/

namespace Sys2Proof.Machine

/-- What an unlisted word reads as: the free value (R128). -/
def SampleMemory.unlisted (m : SampleMemory) (a : Nat) : Sample := Config.untrainedSample m.epoch a

/-- The sample at word address `a`. -/
def SampleMemory.sampleAt (m : SampleMemory) (a : Nat) : Sample := (m.cells.find a).getD (m.unlisted a)

/-- One word written, in canonical form. -/
def SampleMemory.put (m : SampleMemory) (a : Nat) (x : Sample) : SampleMemory :=
  { m with cells := if x = m.unlisted a then m.cells.remove a else m.cells.store a x }

/-- Words written from address `a` on (R113). -/
def SampleMemory.putAll (m : SampleMemory) : Nat → List Sample → SampleMemory
  | _, [] => m
  | a, x :: xs => SampleMemory.putAll (m.put a x) (a + 1) xs

/-- Canonical form: addresses strictly rising, and no entry equal to what an unlisted address reads as. -/
def SampleMemory.wf (m : SampleMemory) : Bool := m.cells.rising && m.cells.all (fun p => decide (p.2 ≠ m.unlisted p.1))

end Sys2Proof.Machine
end

