-- ==== Sys2Proof/Machine/VoiceOps.lean ====
section
/-! DEFINITION. Operations of the voice engine and the sample memory port: play paths (R115, R120), the arbiter (R114), claims (R116),
freeing and handing on (R117, R126, R127), and exits (R121). -/

namespace Sys2Proof.Machine

/-! ## The play path -/

/-- The loop a voice plays: in VAMP or CYCLE, of a clip with a loop, from an offset before the loop's end (R120). -/
def loopOf (c : Clip) (v : Voice) : Option (Nat × Nat) :=
  if v.mode = .once then none else
    match c.loop with
    | some (a, e) => if v.offset < e then some (a, e) else none
    | none => none

/-- R115, R120: the clip sample at path count `k`. -/
def pathSample (c : Clip) (v : Voice) (k : Nat) : Nat :=
  match loopOf c v with
  | none => v.offset + k
  | some (a, e) =>
    let looping := if k < e - v.offset then v.offset + k else a + (k - (e - v.offset)) % (e - a)
    match v.exitAt with
    | some x => if x ≤ k then e + (k - x) else looping
    | none => looping

/-- R115: the length of the path from the start offset; none where it is endless. -/
def pathLen (c : Clip) (v : Voice) : Option Nat :=
  match loopOf c v with
  | none => some (c.len - v.offset)
  | some (_, e) => v.exitAt.map (fun x => x + (c.len - e))

/-- R115: the preload target. -/
def target (c : Clip) (v : Voice) : Nat :=
  match pathLen c v with
  | none => 4096
  | some n => min 4096 (n - v.play)

/-- Path samples left to fetch, at most `n`. -/
def leftToFetch (c : Clip) (v : Voice) (n : Nat) : Nat :=
  match pathLen c v with
  | none => n
  | some len => min n (len - v.fetch)

/-- The clip of a voice, an empty one where absent (a held clip is present: R111, R112). -/
def voiceClip (s : State) (v : Voice) : Clip := (clipOf s v.clip).getD ⟨0, 0, none, 0, false⟩

/-- A voice in PLAYING, STOPPING or PAUSING consumes samples (TABLE 6-3). -/
def consumes (v : Voice) : Bool := v.state = .playing || v.state = .stopping || v.state = .pausing

/-! ## The arbiter -/

/-- The class of the request a voice would hold now, and none where it wants none (R115, R118, R121). -/
def wantedClass (s : State) (n : Nat) : Option Nat :=
  let v := voiceOf s n
  let c := voiceClip s v
  if v.state = .preloading || v.state = .primed then
    if v.buffer.length < target c v ∧ 0 < leftToFetch c v 1 then some v.cls else none
  else if consumes v && v.buffer.length < 2048 && 0 < leftToFetch c v 1 then some 1
  else none

/-- A transfer for the voice is in progress, stale ones included (R114). -/
def inTransfer (s : State) (n : Nat) : Bool :=
  match s.smp.transfer with
  | some (.fetch v _ _ _ _) => v == n
  | _ => false

/-- R114: the requesting voice of class `c` whose number comes first after the class pointer (31 after cold reset). -/
def nextVoice (s : State) (c : Nat) : Option Nat :=
  ((List.range 32).map (fun i => (s.smp.pointers.read 31 c + 1 + i) % 32)).find? (fun v => s.smp.requests.find v == some c)

/-- R115: the size of a transfer: a refill for class 1, a preload otherwise (log 17). -/
def transferSize (s : State) (n c : Nat) : Nat :=
  let v := voiceOf s n
  let k := voiceClip s v
  if c = 1 then min 1024 (leftToFetch k v (4096 - v.buffer.length)) else min 1024 (leftToFetch k v (target k v - v.buffer.length))

/-- The grant of a voice's request: it leaves the arbiter, and the class pointer becomes the voice's number (R114). -/
def grantVoice (n c : Nat) (s : State) : State :=
  { s with smp := { s.smp with
      requests := s.smp.requests.remove n
      pointers := s.smp.pointers.write 31 c n
      transfer := some (.fetch n (voiceOf s n).fetch (transferSize s n c) none false) } }

/-- R114: while the port carries no transfer and a request is held, the highest class that has one is granted. -/
def grant (s : State) : State :=
  match s.smp.transfer with
  | some _ => s
  | none =>
    match nextVoice s 1, nextVoice s 2, nextVoice s 3, s.smp.write with
    | some n, _, _, _ => grantVoice n 1 s
    | none, some n, _, _ => grantVoice n 2 s
    | none, none, some n, _ => grantVoice n 3 s
    | none, none, none, some w => { s with smp := { s.smp with write := none, transfer := some (.write w) } }
    | none, none, none, none => s

/-- R115, R118: the voice makes its request where it wants one, holds none and has no transfer; the arbiter grants (log 17). -/
def makeRequest (n : Nat) (s : State) : State :=
  match wantedClass s n with
  | none => s
  | some c =>
    if (s.smp.requests.find n).isNone && !inTransfer s n then
      grant { s with smp := { s.smp with requests := s.smp.requests.store n c } }
    else s

/-- The voice's held request leaves the arbiter; a transfer in progress for it will bring samples to be discarded (R114, R126). -/
def dropRequest (n : Nat) (s : State) : State :=
  { s with smp := { s.smp with
      requests := s.smp.requests.remove n
      transfer := match s.smp.transfer with
        | some (.fetch v a k cap stale) => some (.fetch v a k cap (stale || v == n))
        | t => t } }

/-! ## Claims -/

/-- What a claim names (R116). -/
structure Claim where
  claimant : Claimant
  clip : Nat
  offset : Nat
  mode : LoopMode
  startLevel : Int
  fadeIn : Nat
  cls : Nat
  startDue : Bool

/-- The outcome of a claim (R116). -/
inductive Claimed where
  | clipAbsent | noVoice
  | got (v : Nat)
  deriving DecidableEq, Repr

/-- The lowest FREE voice (R116). -/
def freeVoice (s : State) : Option Nat := (List.range 32).find? (fun v => (voiceOf s v).state = .free)

/-- R120: the phase a start offset begins in; BEFORE for a clip with no loop (log 26). -/
def startPhase (c : Clip) (offset : Nat) : LoopPhase :=
  match c.loop with
  | none => .before
  | some (a, e) => if offset < a then .before else if offset < e then .inLoop else .tail

/-- R116: a voice's fields set from its claim; in underrun becomes no (log 11). -/
def claimedVoice (c : Clip) (q : Claim) : Voice :=
  let offset := min q.offset (c.len - 1)
  let reduced := q.mode ≠ .once && c.loop.isNone
  { Voice.init with
    state := .preloading, claimant := some q.claimant, clip := q.clip, offset := offset
    mode := if reduced then .once else q.mode
    phase := startPhase c offset, cls := q.cls, startLevel := q.startLevel, fadeIn := q.fadeIn, pos := offset
    startDue := q.startDue, adjusted := decide (c.len ≤ q.offset) || reduced }

/-- R116: a claim takes the lowest FREE voice, which begins its preload (R118). -/
def claimVoice (q : Claim) (s : State) : State × Claimed :=
  match clipOf s q.clip with
  | none => (s, .clipAbsent)
  | some c =>
    match freeVoice s with
    | none => (s, .noVoice)
    | some v => (s |> updVoice v (fun _ => claimedVoice c q) |> makeRequest v, .got v)

/-- A loop mode by its code (Chapter 12). -/
def modeOf : Nat → Option LoopMode
  | 0 => some .once
  | 1 => some .vamp
  | 2 => some .cycle
  | _ => none

/-- The PLAY actions of a cue in listed order: label, clip, offset, mode, level, fade-in. -/
def playsOf (c : Cue) : List (Nat × Nat × Nat × Nat × Int × Nat) :=
  c.actions.filterMap (fun a => match a.kind with
    | .play label clip offset mode level fadeIn => some (label, clip, offset, mode, level, fadeIn)
    | _ => none)

/-- The claim of a PLAY action for a claimant, with the class of its cue's preload hint (R69, R97, R114). -/
def playClaim (who : Claimant) (c : Cue) (p : Nat × Nat × Nat × Nat × Int × Nat) : Claim :=
  { claimant := who, clip := p.2.1, offset := p.2.2.1, mode := (modeOf p.2.2.2.1).getD .once, startLevel := p.2.2.2.2.1,
    fadeIn := p.2.2.2.2.2, cls := if c.priority then 2 else 3, startDue := false }

/-- R117: the PLAY action of a waiting label, as it stands in its cue, with its cue. -/
def waitingPlay (s : State) (w : Waiting) : Option (Cue × (Nat × Nat × Nat × Nat × Int × Nat)) :=
  match cueOf s w.list w.number with
  | none => none
  | some c => ((playsOf c).find? (fun p => p.1 == w.label)).map (fun p => (c, p))

/-- R117, R127: a freed voice is offered to the waiting labels in order: the first whose clip is present claims it, those before it are
dropped; each list is reassessed (R70). Answers whether the voice reached the relay controller. -/
def offerTo : List Waiting → State → State × Bool
  | [], s => ({ s with ve := { s.ve with waits := [] } }, true)
  | w :: ws, s =>
    let s := { s with ve := { s.ve with waits := ws } }
    match waitingPlay s w with
    | none => offerTo ws (reassess w.list s)
    | some (c, p) =>
      match claimVoice (playClaim (.standby w.list w.number w.label) c p) s with
      | (s, .got _) => (reassess w.list s, false)
      | (s, _) => offerTo ws (reassess w.list s)

/-! ## Freeing -/

/-- R126 steps 1 to 4: routes released (in rising handle order, log 39), fade and late start settled, label-map entry removed and the test applied. -/
def settleVoice (n : Nat) (s : State) : State :=
  let v := voiceOf s n
  let s := s |> releaseWhere (fun r => r.src == 64 + n)
             |> updVoice n (fun x => { x with fade := none, fadeInBy := none })
             |> settle (v.fade.bind (·.startedBy))
             |> settle v.fadeInBy
  match v.claimant with
  | some (.running l take _) =>
    (if v.startDue then settleLate l take s else s)
      |> updRunning l take (fun r => { r with labels := r.labels.filter (fun p => p.2 ≠ n) })
      |> completionTest l take
  | _ => s

/-- R126 step 6: the voice becomes FREE; what ReadVoice still shows is kept, and with it every field the rule does not name but the two start
marks, which become no (log 42). -/
def clearVoice (n : Nat) (s : State) : State :=
  s |> updVoice n (fun v => { v with
          state := .free, claimant := none, buffer := [], fade := none, ramp := none, startDue := false, startAligned := false
          exitAt := none, fadeInBy := none, atEnd := false, starting := false, ending := false })
    |> dropRequest n

/-- R126 without a call to tell, and R127 up to the relay controller: answers whether the freed voice reached it. -/
def freeToWaits (n : Nat) (s : State) : State × Bool :=
  let s := s |> settleVoice n |> clearVoice n
  offerTo s.ve.waits s

/-! ## Preload completion and exit -/

/-- R118: a PRELOADING voice whose fill has met its target becomes PRIMED, and a standby's list is reassessed (R70). -/
def completePreload (n : Nat) (s : State) : State :=
  let v := voiceOf s n
  if v.state = .preloading ∧ target (voiceClip s v) v ≤ v.buffer.length then
    let s := updVoice n (fun v => { v with state := .primed }) s
    match v.claimant with
    | some (.standby l _ _) => reassess l s
    | _ => s
  else s

/-- R121: exit pending is set on a VAMP voice in phase BEFORE or IN, a STOPPING one among them (log 34): buffer and fetch count are trimmed to
the next arrival at the loop end, and the path from there on is the tail. -/
def setExit (n : Nat) (s : State) : State :=
  let v := voiceOf s n
  match loopOf (voiceClip s v) v with
  | none => s
  | some (_, e) =>
    if v.mode = .vamp ∧ v.phase ≠ .tail ∧ v.exitPending = false then
      let x := v.play + (e - v.pos)
      let s := updVoice n (fun v => { v with
        exitPending := true, exitAt := some x, fetch := min v.fetch x, buffer := v.buffer.take (x - v.play) }) s
      let s := { s with smp := { s.smp with transfer := match s.smp.transfer with
        | some (.fetch w a k cap stale) => if w = n ∧ stale = false then some (.fetch w a k (some x) stale) else some (.fetch w a k cap stale)
        | t => t } }
      let s := completePreload n s
      let s := if (wantedClass s n).isNone then { s with smp := { s.smp with requests := s.smp.requests.remove n } } else s
      makeRequest n s
    else s

end Sys2Proof.Machine
end

