-- ==== Sys2Proof/Machine/RelayOps.lean ====
section
/-! DEFINITION. Operations of the relay controller: holdings, lamps and zone events (R149), ducks (R154, R155), preemption, activation,
scans (R153) and ends of calls (R157), and freeing a voice with its whole hand-on (R127). -/

namespace Sys2Proof.Machine

/-- The programme route PGMT→Dz of a zone, where one exists. -/
def programmeRoute (s : State) (z : Nat) : Option Nat := findKey s pgmt (56 + z)

/-- The zone's programme route, where one exists, is given a duck fade from its current D (R39, R154, R155). -/
def duckTo (z : Nat) (goal : Int) (dur : Nat) (s : State) : State :=
  match programmeRoute s z with
  | none => s
  | some h => updRoute h (fun r => { r with duckFade := some ⟨r.duck, goal, dur, 0⟩ }) s

/-- The programme duck of a zone is released toward 0 over the zone's release (R155, R157). -/
def duckOut (z : Nat) (s : State) : State := duckTo z 0 (zoneOf s z).release s

/-- The source of a call's routes: its input, or its voice. -/
def callSource (c : Call) : Nat :=
  match c.kind, c.voice with
  | .live i, _ => i
  | .recorded _, some v => 64 + v
  | .recorded _, none => 101

/-- The routes of a call still in use are released (R155, R157). -/
def releaseCallRoutes (c : Call) (s : State) : State :=
  forEach c.routes (fun z s => match findKey s (callSource c) (56 + z) with | some h => releaseRoute h s | none => s) s

/-- Zones are left with no holder, their programme ducks released. -/
def freeZones (zs : List Nat) (s : State) : State :=
  forEach zs (fun z s => s |> updZone z (fun x => { x with holder := none }) |> duckOut z) s

/-- R149: the zone-freed events, in the order of the list. -/
def emitFreed (zs : List Nat) (s : State) : State := forEach zs (fun z s => emit (160 + z) s) s
/-- R149: the zone-call-start events, in the order of the list. -/
def emitStarts (zs : List Nat) (s : State) : State := forEach zs (fun z s => emit (144 + z) s) s

/-- R155 but for its zones: routes released, voice freed, QUEUED with its wait restarted, CALL-PREEMPTED. Answers whether the freed voice
reached the relay controller. -/
def preemptCall (slot : Nat) (s : State) : State × Bool :=
  match callOf s slot with
  | none => (s, false)
  | some c =>
    let s := s |> releaseCallRoutes c |> updCall slot (fun x => { x with routes := [] })
    let (s, reached) := match c.voice with
      | some v => freeToWaits v s
      | none => (s, false)
    (s |> updCall slot (fun x => { x with active := false, wait := 0, voice := none, started := false })
       |> raise .callPreempted (.num slot), reached)

/-- The ACTIVE calls of lower priority that hold a zone of the set (R154 step 1), preempted in rising slot order (log 36). -/
def victims (s : State) (c : Call) : List Nat :=
  s.rl.calls.keys (fun x => x.active && decide (x.priority < c.priority) && x.zones.any (fun z => c.zones.contains z))

/-- Each of the calls is preempted; answers whether a freed voice reached the relay controller. -/
def preemptAll (slots : List Nat) (s : State) : State × Bool :=
  slots.foldl (fun (s, b) slot => let (s, b') := preemptCall slot s; (s, b || b')) (s, false)

/-- R154 step 4: a route of a call into a zone; where the capacities refuse it the zone is left out of the call's routes. -/
def callRoute (slot src z : Nat) (s : State) : State :=
  match capacityRefusal s src (56 + z) with
  | some (_, k, subj) => raise k subj s
  | none =>
    let x := zoneOf s z
    let (s, _) := createRoute ⟨src, 56 + z, .relay, .step x.call, none, .relay, none, x.set, false⟩ s
    updCall slot (fun c => { c with routes := c.routes ++ [z] }) s

/-- R156: the claim of a RECORDED call. -/
def callClaim (slot clip : Nat) : Claim := ⟨.call slot, clip, 0, .once, 0, 0, 2, true⟩

/-- R154: a call activates; its discarded wait count is kept and read as 0 while it is ACTIVE (log 53). Answers whether a zone or a voice was freed
by it (R153). -/
def activate (slot : Nat) (s : State) : State × Bool :=
  match callOf s slot with
  | none => (s, false)
  | some c =>
    let losers := victims s c
    let lost := losers.flatMap (fun l => match callOf s l with | some x => x.zones | none => [])
    let freed := (List.range 15).filter (fun z => lost.contains z && !(c.zones.contains z))
    let (s, reached) := preemptAll losers s
    let s := freeZones freed s
    let s := match c.kind with
      | .live _ => s
      | .recorded clip => (match claimVoice (callClaim slot clip) s with
        | (s, .got v) => updCall slot (fun x => { x with voice := some v }) s
        | (s, _) => s)
    let s := updCall slot (fun x => { x with active := true, wait := 0 }) s
    let s := forEach c.zones (fun z => updZone z (fun x => { x with holder := some slot })) s
    let src := match callOf s slot with | some x => callSource x | none => 101
    let s := forEach c.zones (callRoute slot src) s
    let s := forEach c.zones (fun z s => duckTo z c.duck (zoneOf s z).attack s) s
    (s |> refreshLamps |> emitFreed freed |> emitStarts c.zones, reached || !freed.isEmpty)

/-- R153: a QUEUED call may activate as the holdings stand. -/
def mayActivate (s : State) (c : Call) : Bool :=
  c.zones.all (fun z => match (zoneOf s z).holder with
    | none => true
    | some h => (match callOf s h with | some x => decide (x.priority < c.priority) | none => true))
  && (match c.kind with
    | .live i => i != s.ss.stopSource
    | .recorded clip => (clipOf s clip).isSome && (freeVoice s).isSome && s.ve.waits.isEmpty)

/-- R153: the QUEUED calls by priority, highest first, and within one priority in arrival order. -/
def queuedCalls (s : State) : List Nat :=
  let queued (p : Nat) := s.rl.order.filter (fun slot => match callOf s slot with | some c => !c.active && c.priority == p | none => false)
  queued 2 ++ queued 1 ++ queued 0

/-- One visit of a scan. -/
def visit (acc : State × Bool) (slot : Nat) : State × Bool :=
  match callOf acc.1 slot with
  | none => acc
  | some c =>
    if c.active = false ∧ mayActivate acc.1 c then
      let (s, freed) := activate slot acc.1
      (s, acc.2 || freed)
    else acc

/-- R153: one scan; each call QUEUED at its start is visited once. -/
def scanOnce (s : State) : State × Bool := (queuedCalls s).foldl visit (s, false)

/-- R153: scans are repeated until one frees nothing (at most `n`; log 21). -/
def scanRounds : Nat → State → State
  | 0, s => s
  | n + 1, s => match scanOnce s with
    | (s, true) => scanRounds n s
    | (s, false) => s

/-- R153: a scan with its repetitions. -/
def scan (s : State) : State := scanRounds 512 s

/-- R126, R127: a claimant releases its voice: it is freed and handed on, to the wait list or to the relay controller's scan. -/
def releaseVoice (n : Nat) (s : State) : State :=
  match freeToWaits n s with
  | (s, true) => scan s
  | (s, false) => s

/-- The call leaves its slot and the arrival order; a preset that names it names none (R152, R157, R158). -/
def removeCall (slot : Nat) (s : State) : State :=
  { s with rl := { s.rl with
      calls := s.rl.calls.remove slot
      order := s.rl.order.filter (fun x => x ≠ slot)
      presets := s.rl.presets.mapWrite CallPreset.init (fun _ p =>
        match p.placed with | some (i, _) => if i = slot then { p with placed := none } else p | none => p) } }

/-- R157: an ACTIVE call ends, and a scan is run. -/
def endCall (slot : Nat) (s : State) : State :=
  match callOf s slot with
  | none => s
  | some c =>
    s |> releaseCallRoutes c |> removeCall slot |> freeZones c.zones |> refreshLamps |> emitFreed c.zones |> scan

/-- A call's kind by its code (Chapter 12). -/
def callKindOf (kind unit : Nat) : CallKind := if kind = 0 then .live unit else .recorded unit

/-- Check 1 of R151 on call fields: an unknown kind, input, clip, zone or priority. -/
def badCall (c : CallArgs) : Bool :=
  (c.kind != 0 && c.kind != 1) || (c.kind == 0 && !isAnnounce c.unit) || (c.kind == 1 && 511 < c.unit) || c.zones.getLsbD 15 || 2 < c.priority

/-- The code of a call's origin (12.4): 0 port A, 1 port B, 2-5 lists, 6-13 presets, 14 stop link. -/
def callOriginCode : CallOrigin → Nat
  | .port .a => 0
  | .port .b => 1
  | .list l => 2 + l
  | .preset p => 6 + p
  | .stopLink => 14

/-- R151: the zones a call resolves to: every zone named and every zone of a group named. -/
def resolveZones (s : State) (zones : BitVec 16) (groups : BitVec 8) : List Nat :=
  (List.range 15).filter (fun z => zones.getLsbD z || (zoneOf s z).groups &&& groups != 0)

/-- Checks 2 to 4 of R151. -/
def placeRefusal (s : State) (k : CallKind) : Option Code :=
  if k = .live s.ss.stopSource then some .reserved
  else if (match k with | .recorded c => (clipOf s c).isNone | _ => false) then some .notfound
  else if 16 ≤ s.rl.order.length then some .qfull
  else none

/-- The lowest free call slot (R150). -/
def freeSlot (s : State) : Nat := ((List.range 16).find? (fun i => (callOf s i).isNone)).getD 0

/-- R150, R151: a call is placed QUEUED in the lowest free slot with the counter's sequence; answers its slot and sequence. The scan is
the caller's. -/
def enqueueCall (k : CallKind) (zones : List Nat) (priority : Nat) (duck : Int) (maxWait : Nat) (origin : CallOrigin) (s : State) :
    State × Nat × Nat :=
  let slot := freeSlot s
  let c : Call := ⟨some s.rl.seq, k, zones, priority, duck, maxWait, 0, origin, false, none, false, []⟩
  ({ s with rl := { s.rl with
      calls := s.rl.calls.store slot c, order := s.rl.order ++ [slot], seq := (s.rl.seq + 1) % 65536 } }, slot, s.rl.seq)

/-- R160: preset `p`'s call is placed and becomes its placed call; the scan follows. -/
def placePreset (p : Nat) (origin : CallOrigin) (s : State) : State :=
  let x := callPresetOf s p
  let zones := resolveZones s x.zones x.groups
  if zones.isEmpty then s else
    let (s, slot, seq) := enqueueCall x.kind zones x.priority x.duck x.maxWait origin s
    s |> updCallPreset p (fun x => { x with placed := some (slot, seq) }) |> scan

end Sys2Proof.Machine
end

