-- ==== Sys2Proof/Machine/StandbyOps.lean ====
section
/-! DEFINITION. The cue store's order (R63), the change of standby with its preload (R69), and the end of a list (R72). -/

namespace Sys2Proof.Machine

/-- The cues of list `l`, rising by number. -/
def cuesOf (s : State) (l : Nat) : List (Nat × Cue) :=
  (s.cq.cues.filter (fun p => l * 1000000 ≤ p.1 ∧ p.1 < (l + 1) * 1000000)).map (fun p => (p.1 - l * 1000000, p.2))

/-- R63: the cue of the list with the smallest number at or above `n`. -/
def cueFrom (s : State) (l n : Nat) : Option Nat := ((cuesOf s l).find? (fun p => n ≤ p.1)).map (·.1)

/-- R63: cues and actions in the store. -/
def cueCount (s : State) : Nat := s.cq.cues.length
def actionCount (s : State) : Nat := s.cq.cues.foldl (fun n p => n + p.2.actions.length) 0

/-- Wait-list entries of a cue's labels are removed (R66, R69, R96). -/
def dropWaits (l number : Nat) (s : State) : State :=
  { s with ve := { s.ve with waits := s.ve.waits.filter (fun w => !(w.list == l && w.number == number)) } }

/-- R69 step 1, R75: the labels of a standby lose their wait-list entries and their voices (entries first, log 14; the voices in rising number,
log 32). -/
def releaseLabels (l number : Nat) (s : State) : State :=
  let s := dropWaits l number s
  forEach (standbyVoices s l number) releaseVoice s

/-- R69 step 1 for the list's standby. -/
def releaseStandby (l : Nat) (s : State) : State :=
  match (listOf s l).standby with
  | none => s
  | some n => releaseLabels l n s

/-- R69 step 4: one PLAY action's claim for its standby label. -/
def standbyClaim (l number : Nat) (c : Cue) (p : Nat × Nat × Nat × Nat × Int × Nat) (s : State) : State :=
  match claimVoice (playClaim (.standby l number p.1) c p) s with
  | (s, .noVoice) => { s with ve := { s.ve with waits := s.ve.waits ++ [⟨l, number, p.1⟩] } }
  | (s, _) => s

/-- R69 steps 2 to 5: cue `number` becomes the standby, its PLAY actions claim in listed order, the state is reassessed. -/
def takeStandby (l number : Nat) (s : State) : State :=
  let s := updList l (fun q => { q with trigger := none, standby := some number, state := .preloading }) s
  let s := match cueOf s l number with
    | none => s
    | some c => (playsOf c).foldl (fun s p => standbyClaim l number c p s) s
  reassess l s

/-- R69: the standby of a list changes, or is given a fresh start. -/
def makeStandby (l number : Nat) (s : State) : State := s |> releaseStandby l |> takeStandby l number

/-- The list has no standby: EMPTY where it holds no cues, else ENDED (R68). -/
def noStandby (l : Nat) (s : State) : State :=
  updList l (fun q => { q with standby := none, trigger := none
                               state := if (cuesOf s l).isEmpty then .empty else .ended }) s

/-- R72: the list becomes ENDED, emits list-ended and raises LIST-END. -/
def endList (l : Nat) (s : State) : State :=
  s |> updList l (fun q => { q with standby := none, trigger := none, state := .ended })
    |> emit (140 + l) |> raise .listEnd (.num l)

end Sys2Proof.Machine
end

