-- ==== Sys2Proof/Machine/ActionOps.lean ====
section
/-! DEFINITION. The thirteen action kinds at a GO (R90, R93 to R106), and their posting checks and clamps (R91, TABLE 5-2). -/

namespace Sys2Proof.Machine

/-! ## Posting (R91) -/

/-- A qualifier, condition or pair that does not exist. -/
def badPair (ca cb : Nat) : Bool := ca == cb || 31 < ca || 31 < cb

/-- R91, TABLE 5-2, the column "Refused INVALID at posting"; `labels` are the labels the cue's PLAY actions name. Numbers and codes that name
nothing are refused too where the table's row does not list them (log 51). -/
def badAction (labels : List Nat) (a : Action) : Bool :=
  31 < a.qual ||
  (match a.kind with
  | .route src dst _ fade set _ =>
    (match src with
      | .num n => !srcOk n || (n == pgmt && dst == pgm)
      | .label l => 7 < l || !(labels.contains l))
    || !generalDst dst || badFade fade || (match set with | some n => 3 < n | none => false)
  | .retire t f =>
    badFade (some f) ||
    (match t with
      | .key src dst => !srcOk src || !dstOk dst || !generalDst dst
      | .dest dst => !generalDst dst
      | .all => false
      | .other _ => true)
  | .play label clip _ mode _ _ => 7 < label || 511 < clip || (modeOf mode).isNone
  | .stop t _ => (match t with | .clip c => 511 < c | .all => false | .other _ => true)
  | .exit t => (match t with | .clip c => 511 < c | .all => false | .other _ => true)
  | .fbBase mix src _ fade _ _ => 31 < mix || !srcOk src || badFade fade
  | .call t => (match t with | .preset p => 7 < p | .inline c => badCall c | .other _ => true)
  | .test rel form ca cb =>
    badPair ca cb || 1 < form ||
    (match rel with
      | .meterGe src _ => !srcOk src
      | .meterLt src _ => !srcOk src
      | .condAnd c1 c2 => 31 < c1 || 31 < c2
      | .condOr c1 c2 => 31 < c1 || 31 < c2
      | .contact l => 15 < l
      | .other _ => true)
  | .check set _ form ca cb => badPair ca cb || 3 < set || 1 < form
  | .setc c _ => 31 < c
  | .clears set _ => 3 < set
  | .outputs _ _ => false
  | .event h => 127 < h
  | .other _ => true)

/-- A fade argument with its duration clamped. -/
def clampFadeArg (f : FadeArg) : FadeArg := { f with dur := min f.dur maxFade }

/-- TABLE 5-2, the column "Clamped at posting". -/
def clampKind : ActionKind → ActionKind
  | .route src dst level fade set prot => .route src dst (clampLevel level) (fade.map clampFadeArg) set prot
  | .retire t f => .retire t (clampFadeArg f)
  | .play label clip offset mode level fadeIn => .play label clip offset mode (clampInt (-1024) 0 level) (min fadeIn maxFade)
  | .stop t d => .stop t (min d maxFade)
  | .fbBase mix src level fade rt rm => .fbBase mix src (clampLevel level) (fade.map clampFadeArg) rt rm
  | .call (.inline c) => .call (.inline { c with duck := clampInt (-1024) 0 c.duck, maxWait := min c.maxWait maxFade })
  | .test (.meterGe src thr) form ca cb => .test (.meterGe src (clampInt (-1472) 0 thr)) form ca cb
  | .test (.meterLt src thr) form ca cb => .test (.meterLt src (clampInt (-1472) 0 thr)) form ca cb
  | k => k

/-- An action as it enters the store: clamped, with the clamped-at-posting mark (R64). -/
def postedAction (a : Action) : Action := { a with kind := clampKind a.kind, clamped := decide (clampKind a.kind ≠ a.kind) }

/-- The labels the PLAY actions name, in order. -/
def playLabels (l : List Action) : List Nat :=
  l.filterMap (fun a => match a.kind with | .play label _ _ _ _ _ => some label | _ => none)

/-- Check 2 of R64 on a cue's actions: a bad action, or two PLAY actions naming one label. -/
def badActions (l : List Action) : Bool := l.any (badAction (playLabels l)) || !decide (playLabels l).Nodup

/-! ## At a GO -/

/-- The GO in progress: its list, the take number of its running record, and the cue taken. -/
structure GoContext where
  list : Nat
  take : Nat
  cue : Cue

/-- How an action ended (R90): done, with its marks for the outcome, or failed with a code. -/
inductive ActionEnd where
  | done (adjusted late : Bool)
  | failed (c : Code)

/-- The started-by of what this GO's actions start (R76). -/
def goBy (g : GoContext) : StartedBy := ⟨g.list, g.take⟩

/-- The voice of a label in the running record's label map (R96). -/
def labelVoice (s : State) (g : GoContext) (label : Nat) : Option Nat :=
  match runningOf s g.list g.take with
  | none => none
  | some r => (r.labels.find? (fun p => p.1 == label)).map (·.2)

/-- R93: the source of a ROUTE action, or the code it fails with. -/
def resolveSource (s : State) (g : GoContext) (src : SrcArg) : Except Code Nat :=
  let check (n : Nat) : Except Code Nat :=
    if isVoice n ∧ (voiceOf s (n - 64)).state = .free then .error .novoice
    else if n = s.ss.stopSource then .error .reserved else .ok n
  match src with
  | .num n => check n
  | .label l => (match labelVoice s g l with | none => .error .novoice | some v => check (64 + v))

/-- A counted item where the action gives a fade (R84). -/
def countIf (b : Bool) (g : GoContext) (s : State) : State := if b then countFade (goBy g) s else s

/-- R93, R94: ROUTE. -/
def actRoute (g : GoContext) (src : SrcArg) (dst : Nat) (level : Level) (fade : Option FadeArg) (set : Option Nat) (prot : Option Bool)
    (s : State) : State × ActionEnd :=
  match resolveSource s g src with
  | .error c => (s, .failed c)
  | .ok n =>
    let f := fade.map fadeArg
    match findKey s n dst with
    | some h =>
      let owner := (routeAt s h).map (·.owner)
      let s := reclaim h s
      let s := if owner = some (.cue g.list) then s else adopt h (.cue g.list) s
      let s := countIf f.isSome g s
      let s := setBase h level f (.cue g.list) (some (goBy g)) s
      (giveSetProt h set prot s, .done false false)
    | none =>
      match capacityRefusal s n dst with
      | some (c, k, subj) => (raise k subj s, .failed c)
      | none =>
        let s := countIf f.isSome g s
        let (s, _) := createRoute ⟨n, dst, .cue g.list, level, f, .cue g.list, some (goBy g), set.getD 0, prot.getD false⟩ s
        (s, .done false false)

/-- One LIVE record handed to the retirement unit with class CUE, counted (R95, R100). -/
def retireCounted (g : GoContext) (f : FadeArg) (h : Nat) (s : State) : State :=
  match routeAt s h with
  | none => s
  | some r =>
    if r.state = .live then
      (retireRoute h ⟨(fadeArg f).1, (fadeArg f).2, .cue, .cue g.list, some (goBy g)⟩ (countFade (goBy g) s)).1
    else s

/-- R95: RETIRE. -/
def actRetire (g : GoContext) (t : RetireTarget) (f : FadeArg) (s : State) : State × ActionEnd :=
  match t with
  | .key src dst =>
    (match findKey s src dst with
      | none => (s, .failed .notfound)
      | some h => (retireCounted g f h s, .done false false))
  | .dest d => (forEach (s.rt.routes.keys (fun r => r.owner = .cue g.list && r.dst == d)) (retireCounted g f) s, .done false false)
  | .all => (forEach (s.rt.routes.keys (fun r => r.owner = .cue g.list)) (retireCounted g f) s, .done false false)
  | .other _ => (s, .done false false)

/-- R97: the fade-in of a voice to start is counted, and the voice will carry its started-by. -/
def startFadeIn (g : GoContext) (v : Nat) (s : State) : State :=
  if 0 < (voiceOf s v).fadeIn then s |> countFade (goBy g) |> updVoice v (fun x => { x with fadeInBy := some (goBy g) }) else s

/-- R97: PLAY with a true qualifier. -/
def actPlay (g : GoContext) (p : Nat × Nat × Nat × Nat × Int × Nat) (s : State) : State × ActionEnd :=
  match labelVoice s g p.1 with
  | some v =>
    let x := voiceOf s v
    if x.state = .primed then
      (s |> updVoice v (fun x => { x with startAligned := true }) |> startFadeIn g v, .done x.adjusted false)
    else
      (s |> updVoice v (fun x => { x with startDue := true }) |> countLate (goBy g) |> startFadeIn g v, .done x.adjusted true)
  | none =>
    match claimVoice (playClaim (.running g.list g.take p.1) g.cue p) s with
    | (s, .clipAbsent) => (s, .failed .notfound)
    | (s, .noVoice) => (raise .voiceShort (.num g.list) s, .failed .novoice)
    | (s, .got v) =>
      (s |> updRunning g.list g.take (fun r => { r with labels := r.labels ++ [(p.1, v)] })
         |> updVoice v (fun x => { x with startDue := true }) |> countLate (goBy g) |> startFadeIn g v,
        .done (voiceOf s v).adjusted true)

/-- R96: PLAY with a false qualifier releases its label's voice. -/
def skipPlay (g : GoContext) (label : Nat) (s : State) : State :=
  match labelVoice s g label with
  | some v => releaseVoice v s
  | none => s

/-- R98, R99: the voices a STOP or EXIT reaches: playing or due to play, for a running label. A PRIMED or PRELOADING voice with neither start
mark is not reached, and a STOPPING one is (log 34). They are taken in rising voice number (log 40). -/
def reachedVoices (s : State) (l : Nat) (t : StopTarget) : List Nat :=
  s.ve.voices.keys (fun v =>
    (consumes v || v.state = .paused || v.startDue || v.startAligned) &&
    (match v.claimant with
      | some (.running l' _ _) => (match t with | .clip c => v.clip == c | .all => l' == l | .other _ => false)
      | _ => false))

/-- R98, R122: what a STOP does to one voice. -/
def stopVoice (g : GoContext) (dur n : Nat) (s : State) : State :=
  let v := voiceOf s n
  if v.state = .playing then
    s |> updVoice n (fun x => { x with
          state := .stopping, fade := some ⟨.step (levelNum x.level), .off, dur, 0, some (goBy g)⟩ })
      |> settle (v.fade.bind (·.startedBy))
      |> countFade (goBy g)
  else if (v.startDue || v.startAligned) && (v.state = .primed || v.state = .preloading) then releaseVoice n s
  else s

/-- R98: STOP. -/
def actStop (g : GoContext) (t : StopTarget) (dur : Nat) (s : State) : State × ActionEnd :=
  (forEach (reachedVoices s g.list t) (stopVoice g dur) s, .done false false)

/-- R99: EXIT. -/
def actExit (g : GoContext) (t : StopTarget) (s : State) : State × ActionEnd :=
  (forEach (reachedVoices s g.list t) setExit s, .done false false)

/-- The entry of a source in a mix: the FOLDBACK route into the mix's destination (section 7.1). -/
def entryOf (s : State) (mix src : Nat) : Option (Nat × Route) :=
  match findKey s src (24 + mix) with
  | none => none
  | some h => (match routeAt s h with
    | some r => if r.owner = .foldback then some (h, r) else none
    | none => none)

/-- R100: FB-BASE. -/
def actFbBase (g : GoContext) (mix src : Nat) (level : Level) (fade : Option FadeArg) (resetTrim remove : Bool) (s : State) :
    State × ActionEnd :=
  if src = s.ss.stopSource then (s, .failed .reserved) else
  match entryOf s mix src, remove with
  | some (h, _), true => (retireCounted g (fade.getD ⟨0, 0⟩) h s, .done false false)
  | none, true => (s, .done false false)
  | some (h, _), false =>
    let f := fade.map fadeArg
    let s := s |> reclaim h |> countIf f.isSome g |> setBase h level f (.cue g.list) (some (goBy g))
    (if resetTrim then updRoute h (fun r => { r with trim := 0 }) s else s, .done false false)
  | none, false =>
    if isVoice src ∧ (voiceOf s (src - 64)).state = .free then (s, .failed .novoice) else
    match capacityRefusal s src (24 + mix) with
    | some (c, k, subj) => (raise k subj s, .failed c)
    | none =>
      let f := fade.map fadeArg
      let s := countIf f.isSome g s
      let (s, _) := createRoute ⟨src, 24 + mix, .foldback, level, f, .cue g.list, some (goBy g), dstSet s (24 + mix), false⟩ s
      (s, .done false false)

/-- R101: CALL. -/
def actCall (g : GoContext) (t : CallTarget) (s : State) : State × ActionEnd :=
  match t with
  | .preset p =>
    (match placeRefusal s (callPresetOf s p).kind with
      | some c => (s, .failed c)
      | none => (placePreset p (.list g.list) s, .done false false))
  | .inline c =>
    let k := callKindOf c.kind c.unit
    (match placeRefusal s k with
      | some e => (s, .failed e)
      | none =>
        let zones := resolveZones s c.zones c.groups
        if zones.isEmpty then (s, .done false false)
        else (scan (enqueueCall k zones c.priority c.duck c.maxWait (.list g.list) s).1, .done false false))
  | .other _ => (s, .done false false)

/-- METER-GE: the meter is not OFF and at or above the threshold (R105). -/
def meterAtLeast (s : State) (src : Nat) (thr : Int) : Bool :=
  match s.le.meters.read .off src with
  | .off => false
  | .step m => thr ≤ m

/-- R105: the result of a TEST. -/
def testResult (s : State) : TestRel → Bool
  | .meterGe src thr => meterAtLeast s src thr
  | .meterLt src thr => !meterAtLeast s src thr
  | .condAnd c1 c2 => condOf s c1 && condOf s c2
  | .condOr c1 c2 => condOf s c1 || condOf s c2
  | .contact l => (inputOf s l).settled
  | .other _ => false

/-- R104: ca takes the result and cb its opposite. -/
def writePair (ca cb : Nat) (r : Bool) (s : State) : State := s |> writeCond ca r |> writeCond cb (!r)

/-- R106: TRUE when no flag in the mask is set. -/
def checkResult (s : State) (set : Nat) (mask : BitVec 8) : Bool := !((setOf s set).flags.and (flagsOf mask)).any

/-- R90, R93 to R106: an action with a true qualifier. -/
def runAction (g : GoContext) (k : ActionKind) (s : State) : State × ActionEnd :=
  match k with
  | .route src dst level fade set prot => actRoute g src dst level fade set prot s
  | .retire t f => actRetire g t f s
  | .play label clip offset mode level fadeIn => actPlay g (label, clip, offset, mode, level, fadeIn) s
  | .stop t d => actStop g t d s
  | .exit t => actExit g t s
  | .fbBase mix src level fade rt rm => actFbBase g mix src level fade rt rm s
  | .call t => actCall g t s
  | .test rel _ ca cb => (writePair ca cb (testResult s rel) s, .done false false)
  | .check set mask _ ca cb => (writePair ca cb (checkResult s set mask) s, .done false false)
  | .setc c v => (writeCond c v s, .done false false)
  | .clears set mask => (clearFlags set (flagsOf mask) s, .done false false)
  | .outputs a b => (driveFn a b s, .done false false)
  | .event h => (emit (256 + h) s, .done false false)
  | .other _ => (s, .done false false)

/-- R90, R96, R104: an action with a false qualifier. -/
def skipAction (g : GoContext) (k : ActionKind) (s : State) : State :=
  match k with
  | .play label _ _ _ _ _ => skipPlay g label s
  | .test _ 1 ca cb => s |> writeCond ca false |> writeCond cb false
  | .check _ _ 1 ca cb => s |> writeCond ca false |> writeCond cb false
  | _ => s

/-- R86, R90: one action of a GO, and its count in the outcome being built. The adjusted flag of its voice marks the outcome only where a PLAY is
done (log 50). -/
def goAction (g : GoContext) (acc : State × CueOutcome) (a : Action) : State × CueOutcome :=
  let (s, o) := acc
  if condOf s a.qual then
    match runAction g a.kind s with
    | (s, .done adj late) => (s, { o with done := o.done + 1, adjusted := o.adjusted || adj || a.clamped, late := o.late || late })
    | (s, .failed c) =>
      (raise .actionFailed (.num g.list) s,
        { o with failed := o.failed + 1, first := some (o.first.getD c), adjusted := o.adjusted || a.clamped })
  else (skipAction g a.kind s, { o with skipped := o.skipped + 1, adjusted := o.adjusted || a.clamped })

end Sys2Proof.Machine
end

