-- ==== Sys2Proof/Machine/GoOps.lean ====
section
/-! DEFINITION. The taking of a standby cue (R75 to R77), by hand or by a trigger. -/

namespace Sys2Proof.Machine

/-- R77 step 2, R81: the trigger of a standby reached by a GO. `take` is the running record that GO made; with none, a FOLLOW trigger
passes to COUNTING at the end of the same GO. -/
def armTrigger (c : Cue) (take : Option Nat) : Option Pending :=
  match c.trigger with
  | .continue => some ⟨.continue, .counting 0, c.delay, false⟩
  | .follow => (match take with
    | some t => some ⟨.follow, .awaiting t, c.delay, false⟩
    | none => some ⟨.follow, .counting 0, c.delay, false⟩)
  | _ => none

/-- R77 steps 1 and 2: the pointer advances past `number`. -/
def advancePointer (l number : Nat) (take : Option Nat) (s : State) : State :=
  match cueFrom s l (number + 1) with
  | none => endList l s
  | some n =>
    let s := makeStandby l n s
    match cueOf s l n with
    | none => s
    | some c => updList l (fun q => { q with trigger := armTrigger c take }) s

/-- R77 steps 3 and 4. -/
def goTaken (l : Nat) (s : State) : State := s |> updList l (fun q => { q with sinceGo := some 0 }) |> emit (128 + l)

/-- The cue's outcome is replaced (R75, R76, R86). -/
def setOutcome (l number : Nat) (o : CueOutcome) (s : State) : State :=
  { s with cq := { s.cq with cues := s.cq.cues.mapAll (fun k c => if k = cueKey l number then { c with outcome := some o } else c) } }

/-- R75: a cue taken with a false qualifier; its voices' adjusted flags do not mark the outcome (log 50). -/
def takeFalse (l number : Nat) (c : Cue) (s : State) : State :=
  s |> releaseLabels l number
    |> setOutcome l number ⟨false, none, 0, c.actions.length, 0, none, c.actions.any (·.clamped), false⟩
    |> advancePointer l number none |> goTaken l |> emit (136 + l)

/-- R76 step 1: with eight running records, the oldest completes. -/
def overflow (l : Nat) (s : State) : State :=
  match (listOf s l).running with
  | r :: rest => if 8 ≤ (r :: rest).length then completeRunning l r.take s else s
  | [] => s

/-- R76 step 2: a running record is made at the end of the running set, and the take counter advances modulo 2^32. -/
def makeRunning (l number take : Nat) (s : State) : State :=
  updList l (fun q => { q with running := q.running ++ [⟨number, take, 0, 0, [], true⟩], takes := (q.takes + 1) % 4294967296 }) s

/-- R76 step 3, R96: the labels' voices pass to the running record, and their wait-list entries are removed; the label map lists the voices in
rising number (log 32). -/
def passVoices (l number take : Nat) (s : State) : State :=
  forEach (standbyVoices s l number) (fun v s =>
    match (voiceOf s v).claimant with
    | some (.standby _ _ label) =>
      s |> updVoice v (fun x => { x with claimant := some (.running l take label) })
        |> updRunning l take (fun r => { r with labels := r.labels ++ [(label, v)] })
    | _ => s) (dropWaits l number s)

/-- R77 step 5: the GO's record is no longer being taken, and the completion test is applied to it. -/
def finishTaking (l take : Nat) (s : State) : State :=
  s |> updRunning l take (fun r => { r with taking := false }) |> completionTest l take

/-- R79: a GO with a late start raises LATE-START once. -/
def noteLate (l : Nat) (o : CueOutcome) (s : State) : State := if o.late then raise .lateStart (.num l) s else s

/-- R76: a cue taken with a true qualifier; answers whether a voice starts late. -/
def takeTrue (l number : Nat) (c : Cue) (s : State) : State × Bool :=
  let s := overflow l s
  let take := (listOf s l).takes
  let s := s |> makeRunning l number take |> passVoices l number take
  let (s, o) := c.actions.foldl (goAction ⟨l, take, c⟩) (s, ⟨true, some take, 0, 0, 0, none, false, false⟩)
  (s |> noteLate l o |> setOutcome l number o |> advancePointer l number (some take) |> goTaken l |> finishTaking l take, o.late)

/-- R75 to R77: the list's standby is taken. Answers the cue's number, the take number where one was made, and the late mark. -/
def takeCue (l : Nat) (s : State) : State × Option (Nat × Option Nat × Bool) :=
  match standbyCue s l with
  | none => (s, none)
  | some (number, c) =>
    let s := updList l (fun q => { q with trigger := none }) s
    if condOf s c.qual then
      let take := (listOf (overflow l s) l).takes
      let (s, late) := takeTrue l number c s
      (s, some (number, some take, late))
    else (takeFalse l number c s, some (number, none, false))

/-- The outcome of a GO by hand (R73). -/
inductive GoEnd where
  | refused (c : Code)
  | taken (number : Nat) (take : Option Nat) (late : Bool)

/-- Checks 3 to 5 of R73, R74, and the taking. -/
def goByHand (l : Nat) (s : State) : State × GoEnd :=
  if s.ss.stopped then (s, .refused .held)
  else if (listOf s l).standby.isNone then (s, .refused .nostandby)
  else if (match (listOf s l).sinceGo with | some n => decide (n < (listOf s l).guard) | none => false) then
    (raise .goIgnored (.num l) s, .refused .ignored)
  else
    match takeCue l s with
    | (s, some (n, t, late)) => (s, .taken n t late)
    | (s, none) => (s, .refused .nostandby)

end Sys2Proof.Machine
end

