-- ==== Sys2Proof/Machine/Marks.lean ====
section
/-! DEFINITION. What a boundary brought to its end and no row has ended yet (log 1): one predicate for each completion row of the table. -/

namespace Sys2Proof.Machine

/-- R37: a base fade has reached its duration. -/
def baseFadeEnds (r : Route) : Bool := match r.fade with | some f => reached f.dur f.n | none => false

/-- R39: a duck fade has reached its duration. -/
def duckFadeEnds (r : Route) : Bool := match r.duckFade with | some f => reached f.dur f.n | none => false

/-- R54: a GATHERING batch has reached its gather window. -/
def windowEnds (b : Batch) : Bool := b.phase = .gathering && reached b.window b.count

/-- R56: a FADING batch has reached its duration. -/
def batchEnds (b : Batch) : Bool := b.phase = .fading && reached b.dur b.n

/-- A PRIMED voice starts at this boundary; while the show is stopped only a recorded call's does (R119). -/
def startsNow (stopped : Bool) (v : Voice) : Bool :=
  v.state = .primed && (v.startDue || v.startAligned)
    && (!stopped || (match v.claimant with | some (.call _) => true | _ => false))

/-- R119: a boundary found the voice to start, and it still does. -/
def voiceStarts (stopped : Bool) (v : Voice) : Bool := v.starting && startsNow stopped v

/-- R126: a boundary found the voice at its clip end. -/
def voiceEnds (v : Voice) : Bool := v.ending && v.atEnd

/-- R122: a voice fade has reached its duration. -/
def voiceFadeEnds (v : Voice) : Bool := match v.fade with | some f => reached f.dur f.n | none => false

/-- R124: the DOWN ramp of a PAUSING voice has reached its duration, or was turned DOWN there (log 52). -/
def rampDownEnds (v : Voice) : Bool :=
  match v.ramp with | some p => v.state = .pausing && !p.up && reached p.dur p.r | none => false

/-- R125: an UP ramp has reached 0, or was turned UP there (log 52). -/
def rampUpEnds (v : Voice) : Bool := match v.ramp with | some p => p.up && p.r = 0 | none => false

/-- R80: the pending trigger of a list that a boundary brought due, while the show is not stopped (R83). -/
def dueTrigger (s : State) (l : Nat) : Option Pending :=
  match (listOf s l).trigger with
  | none => none
  | some p => if p.due ∧ s.ss.stopped = false then some p else none

/-- R168: the timers' periods in frames. -/
def timerPeriodOf (t : Nat) : Nat := if t = 0 then 10 else if t = 1 then 100 else if t = 2 then 1000 else 60000

/-- R168: a timer's count has reached its period. -/
def timerEnds (s : State) (t : Nat) : Bool := timerPeriodOf t ≤ timerOf s t

/-- R158: a QUEUED call has waited its max wait. -/
def callExpires (c : Call) : Bool := !c.active && 0 < c.maxWait && c.maxWait ≤ c.wait

/-- R165: some work of the last boundary has not ended. The level engine's window end may come before or after a delivery (section 9.4), so
it does not count. -/
def boundaryOpen (s : State) : Bool :=
  s.rt.routes.any (fun p => baseFadeEnds p.2 || duckFadeEnds p.2)
    || s.ru.batches.any (fun p => windowEnds p.2 || batchEnds p.2)
    || s.ve.voices.any (fun p => voiceStarts s.ss.stopped p.2 || voiceEnds p.2 || voiceFadeEnds p.2 || rampDownEnds p.2 || rampUpEnds p.2)
    || (List.range 4).any (fun i => (dueTrigger s i).isSome || timerEnds s i)
    || s.rl.calls.any (fun p => callExpires p.2)
    || s.ef.inputs.any (fun p => p.2.settleDue)

end Sys2Proof.Machine
end

