-- ==== Sys2Proof/Machine/Causes.lean ====
section
/-! DEFINITION. Causes and deliveries (R164, R165): which events in flight still wait for a consumer, how a cause begins, and the delivery of an
event to one consumer (log 4). -/

namespace Sys2Proof.Machine

/-- The slot a consumer names (TABLE 9-2): an event identifier, 0 for none. An EVENT trigger counts only while its cue stands by (R165). -/
def slotOf (s : State) : Consumer → Nat
  | .go l => s.ef.goLinks.read 0 l
  | .trigger l => match standbyCue s l with
    | some (_, c) => (match c.trigger with | .event id => id | _ => 0)
    | none => 0
  | .fn f => (s.ef.fns.read OutputFn.init f).trigger
  | .watch w => (s.ef.watches.read Watch.init w).trigger
  | .place p => (s.rl.presets.read CallPreset.init p).place
  | .release p => (s.rl.presets.read CallPreset.init p).release
  | .cond l => (s.cf.links.read CondLink.init l).eventId
  | .stop => s.ef.stopLink
  | .resume => s.ef.resumeLink

/-- Every consumer of TABLE 9-2. -/
def allConsumers : List Consumer :=
  (List.range 4).map .go ++ (List.range 4).map .trigger ++ (List.range 8).map .fn ++ (List.range 16).map .watch
    ++ (List.range 8).map .place ++ (List.range 8).map .release ++ (List.range 8).map .cond ++ [.stop, .resume]

/-- Consumer `k` names event `e` and has not had it. -/
def awaits (s : State) (e : InFlight) (k : Consumer) : Bool := slotOf s k == e.id && !(e.done.contains k)

/-- R165: the causes that have not ended: the work of the last boundary, while some of it is left. -/
def unended (s : State) : List Nat := if boundaryOpen s then [s.ef.boundary] else []

/-- R165: of the events in flight, those that some consumer awaits, and those whose turn has not come: an earlier event of their cause is still
awaited, or their cause (one of `causes`) has not ended. The others leave no trace. -/
def awaitedFrom (s : State) : List InFlight → List Nat → List InFlight
  | [], _ => []
  | e :: es, causes =>
    if causes.contains e.cause || allConsumers.any (awaits s e) then e :: awaitedFrom s es (e.cause :: causes) else awaitedFrom s es causes

/-- R165: the events that still wait. -/
def awaited (s : State) : List InFlight := awaitedFrom s s.ef.events (unended s)

/-- A new cause begins (R164, R165): events that wait no more are gone, and what it emits carries `depth`. -/
def begin (depth : Nat) (s : State) : State :=
  { s with ef := { s.ef with events := awaited s, causes := s.ef.causes + 1, cause := s.ef.causes + 1, depth := depth } }

/-- R165: a step of the work of the last boundary: what it emits is of that one cause, and carries `depth`. -/
def rejoin (depth : Nat) (s : State) : State := { s with ef := { s.ef with cause := s.ef.boundary, depth := depth } }

/-- The work of a boundary begins: a cause that the completion rows go on with (R165, log 4). -/
def beginBoundary (s : State) : State :=
  { begin 1 s with ef := { (begin 1 s).ef with boundary := s.ef.causes + 1 } }

/-- R165: the event that consumer `k` takes: the first that it awaits and that no earlier event of the same cause precedes, of a cause that has
ended. -/
def nextFor (s : State) (k : Consumer) : List InFlight → List Nat → Option InFlight
  | [], _ => none
  | e :: es, causes => if awaits s e k && !(causes.contains e.cause) then some e else nextFor s k es (e.cause :: causes)

/-- Records that `k` has had event `e`. -/
def markDone (k : Consumer) (e : InFlight) : List InFlight → List InFlight
  | [] => []
  | x :: xs => if x = e then { x with done := k :: x.done } :: xs else x :: markDone k e xs

/-- R165: a delivery to consumer `k` as an event of its own; what it does emits at the delivered depth plus one (R164). With nothing to
deliver nothing happens (log 5). -/
def deliver (k : Consumer) (act : InFlight → State → State) (s : State) : State :=
  match nextFor s k (awaited s) (unended s) with
  | none => s
  | some e =>
    let s := begin (e.depth + 1) s
    act e { s with ef := { s.ef with events := markDone k e s.ef.events } }

end Sys2Proof.Machine
end

