-- ==== Sys2Proof/Machine/PortOps.lean ====
section
/-! DEFINITION. The control ports' shared operations: the status byte (R188), arrival (R189), acting on a request (R186), replies and
their frames (TABLE 12-2). -/

namespace Sys2Proof.Machine

def portOf (s : State) : Port → PortState
  | .a => s.portA
  | .b => s.portB

/-- Replaces a port's state by `f` of it. -/
def updPort (p : Port) (f : PortState → PortState) (s : State) : State :=
  match p with
  | .a => { s with portA := f s.portA }
  | .b => { s with portB := f s.portB }

/-- R188, TABLE 12-1: the status byte of a port. -/
def statusByte (s : State) (p : Port) : Byte :=
  let x := portOf s p
  BitVec.ofNat 8 (128 * s.ready.toNat + 64 * (decide (8 ≤ x.requests.length)).toNat + 32 * (!x.replies.isEmpty).toNat
    + 16 * (notify s).toNat + 8 * x.dropped.toNat + 4 * s.ss.stopped.toNat + 2 * s.ss.locked.toNat + s.ss.key.toNat)

/-- R187, R189: a transaction opens: the status byte is sent and the dropped flag cleared; then `rest` is sent. -/
def transact (p : Port) (rest : List Byte) (s : State) : State :=
  let b := statusByte s p
  updPort p (fun x => { x with dropped := false, out := b :: rest }) s

/-- The subject of DROPPED-REQUEST (TABLE 11-4): port A 0, port B 1. -/
def portCode : Port → Nat
  | .a => 0
  | .b => 1

/-- R189: a request arrives: it joins the port's request queue, or is discarded with the dropped flag set and DROPPED-REQUEST raised. -/
def arrive (p : Port) (i : Instr) (s : State) : State :=
  if s.ready = false ∨ 8 ≤ (portOf s p).requests.length then
    s |> updPort p (fun x => { x with dropped := true }) |> raise .droppedRequest (.num (portCode p))
  else updPort p (fun x => { x with requests := x.requests ++ [i] }) s

/-- R190: the port may take a request now. -/
def canTake (s : State) (p : Port) : Bool :=
  s.ready && (portOf s p).inProgress.isNone && decide ((portOf s p).replies.length < 8)

/-- R190: a request completes and its reply joins the end of the reply queue. -/
def reply (h : Hdr) (a : Answer) (s : State) : State := updPort h.port (fun x => { x with replies := x.replies ++ [⟨h.tag, a⟩] }) s

/-- R186 check 2 and 3, R190: what a request taken does: port B is answered DENIED unless `forB`; else the block acts and its answer is the
reply. -/
def answerWith (h : Hdr) (forB : Bool) (act : State → State × Answer) (s : State) : State :=
  if h.port = .b ∧ forB = false then reply h (refuse .denied) s
  else reply h (act s).2 (act s).1

/-- What a request that only reads does: the state stands. -/
def reading (read : State → Answer) (s : State) : State × Answer := (s, read s)

/-- The place of a code in TABLE 11-3 (TABLE 12-2). -/
def codeByte (c : Code) : Nat := c.ctorIdx

/-- The marks byte of a reply (TABLE 12-2). -/
def marksByte (a : Answer) : Nat := a.adjusted.toNat + 2 * a.more.toNat + 4 * a.late.toNat + 8 * a.individual.toNat

/-- The frame of a reply: tag, result, marks, length, payload (TABLE 12-2). -/
def replyFrame (r : Reply) : List Byte :=
  let body := encodeFields r.answer.data
  bytesOf 2 r.tag.toNat ++ bytesOf 1 (codeByte r.answer.code) ++ bytesOf 1 (marksByte r.answer) ++ bytesOf 2 body.length ++ body

end Sys2Proof.Machine
end

