-- ==== Sys2Proof/Machine/CueRequests.lean ====
section
/-! DEFINITION. The cue sequencer's requests (R64 to R67, R71, R73, R74, R87), the GO link and the EVENT trigger (R73, R82), and their
commands. Reply layouts: 12.3 and log 19. -/

namespace Sys2Proof.Machine

/-! ## Posting, replacing and retiring -/

/-- Check 1 of R64. -/
def badCue (c : CueArgs) : Bool :=
  3 < c.list || 999999 < c.number || 3 < c.trigger || (c.trigger == 3 && c.eventId == 0) || 31 < c.qual || 1 < c.hint
    || decide (32 < c.actions.length)

/-- Triggers by code (TABLE 4-1). -/
def triggerOf (code id : Nat) : Trigger := if code = 1 then .follow else if code = 2 then .continue else if code = 3 then .event id else .manual

/-- The cue as it enters the store (R64): clamped, with no outcome. -/
def storedCue (c : CueArgs) : Cue :=
  { trigger := triggerOf c.trigger c.eventId, delay := min c.delay maxFade, qual := c.qual, priority := c.hint == 1, prot := c.prot
    actions := c.actions.map postedAction, outcome := none }

/-- Some value of the cue was clamped (R64). -/
def cueAdjusted (c : CueArgs) : Bool := decide (maxFade < c.delay) || (storedCue c).actions.any (·.clamped)

/-- The cue enters the store. -/
def putCue (c : CueArgs) (s : State) : State :=
  { s with cq := { s.cq with cues := s.cq.cues.store (cueKey c.list c.number) (storedCue c) } }

/-- R64: the cue is posted. -/
def createCue (c : CueArgs) (s : State) : State × Answer :=
  if Config.cues ≤ cueCount s ∨ Config.actions < actionCount s + c.actions.length then (s, refuse .full)
  else
    let empty := (listOf s c.list).state = .empty
    let s := putCue c s
    let s := if empty then makeStandby c.list c.number s else s
    (s, okAdj (cueAdjusted c) [u1 c.list, u4 c.number, u2 (cueCount s), u2 (actionCount s)])

/-- R64: PostCue without the replace flag. -/
def doPostCue (c : CueArgs) (s : State) : State × Answer :=
  if badCue c || badActions c.actions then (s, refuse .invalid)
  else if (cueOf s c.list c.number).isSome then (s, refuse .exists)
  else createCue c s

/-- R65: PostCue with the replace flag. -/
def doReplaceCue (c : CueArgs) (s : State) : State × Answer :=
  if badCue c || badActions c.actions then (s, refuse .invalid)
  else match cueOf s c.list c.number with
    | none => createCue c s
    | some old =>
      if Config.actions < actionCount s - old.actions.length + c.actions.length then (s, refuse .full)
      else if old.prot && guarded s then (s, refuse .locked)
      else
        let s := putCue c s
        let s := if (listOf s c.list).standby = some c.number then makeStandby c.list c.number s else s
        (s, okAdj (cueAdjusted c) [])

/-- R66: the pointer moves on from a retired standby. -/
def leaveStandby (l number : Nat) (s : State) : State :=
  match cueFrom s l (number + 1) with
  | some n => makeStandby l n s
  | none =>
    let s := releaseStandby l s
    if (cuesOf s l).isEmpty then noStandby l s else endList l s

/-- R66: RetireCue. -/
def doRetireCue (l number : Nat) (s : State) : State × Answer :=
  if 3 < l then (s, refuse .invalid)
  else if 999999 < number then (s, refuse .notfound)
  else match cueOf s l number with
    | none => (s, refuse .notfound)
    | some c =>
      if c.prot && guarded s then (s, refuse .locked)
      else
        let s := { s with cq := { s.cq with cues := s.cq.cues.remove (cueKey l number) } }
        let s :=
          if (listOf s l).standby = some number then leaveStandby l number s
          else if (cuesOf s l).isEmpty ∧ (listOf s l).standby.isNone then noStandby l s
          else s
        (s, okWith [])

/-! ## Standby, configuration and GO -/

/-- The code of a list's state (TABLE 4-3). -/
def listStateCode : ListState → Nat
  | .empty => 0
  | .preloading => 1
  | .primed => 2
  | .ended => 3

/-- R71: SetStandby; the reply carries the list's state byte for the present standby too (log 33). -/
def doSetStandby (l number : Nat) (s : State) : State × Answer :=
  if 3 < l then (s, refuse .invalid)
  else if 999999 < number ∨ (cueOf s l number).isNone then (s, refuse .notfound)
  else if (listOf s l).standby = some number then (s, okWith [u1 (listStateCode (listOf s l).state)])
  else
    let s := makeStandby l number s
    (s, okWith [u1 (listStateCode (listOf s l).state)])

/-- R74: SetListConfig. -/
def doSetListConfig (l : Nat) (guard : Option Nat) (promptGo : Option Bool) (s : State) : State × Answer :=
  if 3 < l then (s, refuse .invalid)
  else
    (updList l (fun q => { q with guard := (guard.map (min · 2000)).getD q.guard, promptGo := promptGo.getD q.promptGo }) s,
      okAdj (match guard with | some g => decide (2000 < g) | none => false) [])

/-- R73: the Go request. -/
def doGo (h : Hdr) (l : Nat) (s : State) : State × Answer :=
  if 3 < l then (s, refuse .invalid)
  else if h.port = .b ∧ (listOf s l).promptGo = false then (s, refuse .denied)
  else match goByHand l s with
    | (s, .refused c) => (s, refuse c)
    | (s, .taken n t late) => (s, { okWith [u4 n, o4 t] with late := late })

/-- R82: an event reaches the standby's EVENT trigger: a pending trigger is set where none is. -/
def armEvent (l : Nat) (e : InFlight) (s : State) : State :=
  match standbyCue s l with
  | none => s
  | some (_, c) => updList l (fun q => { q with trigger := match q.trigger with
      | some p => some p
      | none => some ⟨.event e.depth, .counting 0, c.delay, false⟩ }) s

/-! ## Reads -/

/-- Items padded with zero bytes to `n` bytes. -/
def padTo (n : Nat) (l : List Field) : List Field := l ++ List.replicate (n - (l.map (·.width)).sum) (u1 0)

/-- A fade of an action: 0xFFFFFFFF where it gives none (log 18). -/
def fadeItems (f : Option FadeArg) : List Field :=
  match f with
  | none => [u4 0xFFFFFFFF, u1 0]
  | some f => [u4 f.dur, u1 f.curve]

/-- The fields of a call as the CALL action lays them out. -/
def callItems (c : CallArgs) : List Field :=
  [u1 c.kind, u2 c.unit, u2 c.zones.toNat, u1 c.groups.toNat, u1 c.priority, s2 c.duck, u4 c.maxWait]

/-- A STOP or EXIT target. -/
def stopItems : StopTarget → List Field
  | .clip c => [u1 0, u2 c]
  | .all => [u1 1, u2 0]
  | .other t => [u1 t, u2 0]

/-- A relation with its operands (TABLE 12-4, TEST). -/
def relItems (r : TestRel) (form ca cb : Nat) : List Field :=
  let row := fun (rel x c2 : Nat) (thr : Int) => [u1 rel, u1 form, u1 ca, u1 cb, u1 x, u1 c2, s2 thr]
  match r with
  | .meterGe src thr => row 0 src 0 thr
  | .meterLt src thr => row 1 src 0 thr
  | .condAnd a b => row 2 a b 0
  | .condOr a b => row 3 a b 0
  | .contact l => row 4 l 0 0
  | .other n => row n 0 0 0

/-- An action's kind code and parameters (TABLE 12-4). -/
def kindItems : ActionKind → Nat × List Field
  | .route src dst level fade set prot =>
    (1, (match src with | .num n => [u1 0, u1 n] | .label l => [u1 1, u1 l]) ++ [u1 dst, lev level] ++ fadeItems fade
      ++ [o1 set, o1 (prot.map Bool.toNat)])
  | .retire t f =>
    (2, (match t with
      | .key src dst => [u1 0, u1 src, u1 dst]
      | .dest d => [u1 1, u1 0, u1 d]
      | .all => [u1 2, u1 0, u1 0]
      | .other n => [u1 n, u1 0, u1 0]) ++ [u4 f.dur, u1 f.curve])
  | .play label clip offset mode level fadeIn => (3, [u1 label, u2 clip, u4 offset, u1 mode, s2 level, u4 fadeIn])
  | .stop t d => (4, stopItems t ++ [u4 d])
  | .exit t => (5, stopItems t)
  | .fbBase mix src level fade rt rm => (6, [u1 mix, u1 src, lev level] ++ fadeItems fade ++ [u1 (rt.toNat + 2 * rm.toNat)])
  | .call t =>
    (7, match t with
      | .preset p => [u1 0, u1 p] ++ callItems ⟨0, 0, 0, 0, 0, 0, 0⟩
      | .inline c => [u1 1, u1 0] ++ callItems c
      | .other n => [u1 n, u1 0] ++ callItems ⟨0, 0, 0, 0, 0, 0, 0⟩)
  | .test r form ca cb => (8, relItems r form ca cb)
  | .check set mask form ca cb => (9, [u1 set, u1 mask.toNat, u1 form, u1 ca, u1 cb])
  | .setc c v => (10, [u1 c, flag v])
  | .clears set mask => (11, [u1 set, u1 mask.toNat])
  | .outputs a b => (12, [u2 a.toNat, u2 b.toNat])
  | .event h => (13, [u1 h])
  | .other n => (n, [])

/-- An action in 24 bytes, its clamped-at-posting mark in byte 23 bit 0 (12.3). -/
def actionItems (a : Action) : List Field := padTo 23 ([u1 (kindItems a.kind).1, u1 a.qual] ++ (kindItems a.kind).2) ++ [flag a.clamped]

/-- A trigger's code and event id. -/
def triggerItems : Trigger → Nat × Nat
  | .manual => (0, 0)
  | .follow => (1, 0)
  | .continue => (2, 0)
  | .event id => (3, id)

/-- A cue's header (12.3). -/
def cueHeader (l number : Nat) (c : Cue) : List Field :=
  [u1 l, u4 number, u1 (triggerItems c.trigger).1, u2 (triggerItems c.trigger).2, u4 c.delay, u1 c.qual, u1 c.priority.toNat, u1 c.prot.toNat,
    u1 c.actions.length]

/-- An outcome in 11 bytes (12.3). -/
def outcomeItems : Option CueOutcome → List Field
  | none => List.replicate 11 (u1 0)
  | some o => [u1 1, flag o.qualifier, o4 o.take, u1 o.done, u1 o.skipped, u1 o.failed, o1 (o.first.map codeByte),
      u1 (o.adjusted.toNat + 2 * o.late.toNat)]

/-- R67: a cue as read. -/
def cueItems (s : State) (l number : Nat) (c : Cue) : List Field :=
  let takes := ((listOf s l).running.filter (fun r => r.number == number)).map (·.take)
  cueHeader l number c ++ c.actions.flatMap actionItems ++ outcomeItems c.outcome
    ++ [flag ((listOf s l).standby == some number), u1 takes.length] ++ takes.map u4

/-- R67: ReadCue, the list checked before the number (log 30). -/
def readCueAnswer (l number : Nat) (atOrAfter : Bool) (s : State) : Answer :=
  if 3 < l then refuse .invalid
  else if 999999 < number then refuse .notfound
  else
    match (if atOrAfter then cueFrom s l number else some number) with
    | none => refuse .notfound
    | some n => (match cueOf s l n with
      | none => refuse .notfound
      | some c => okWith (cueItems s l n c))

/-- A pending trigger as read, with a present byte (R87); its chain depth in one byte, 0 for FOLLOW and CONTINUE (log 19). -/
def pendingItems : Option Pending → List Field
  | none => [u1 0]
  | some p =>
    [u1 1, u1 (match p.kind with | .follow => 0 | .continue => 1 | .event _ => 2)]
    ++ (match p.phase with
      | .awaiting t => [u1 0, u4 t, u4 0]
      | .counting c => [u1 1, u4 0, u4 c])
    ++ [u4 p.delay, u1 (match p.kind with | .event d => d | _ => 0)]

/-- A running record as read (TABLE 4-4). -/
def runningItems (r : Running) : List Field :=
  [u4 r.number, u4 r.take, u2 r.fades, u2 r.late, u1 r.labels.length] ++ r.labels.flatMap (fun p => [u1 p.1, u1 p.2])

/-- The code of a voice's state: its place in TABLE 6-3, Voice states, and not in the values that TABLE 6-2 names for the field (log 47). -/
def voiceStateCode : VoiceState → Nat
  | .free => 0
  | .preloading => 1
  | .primed => 2
  | .playing => 3
  | .stopping => 4
  | .pausing => 5
  | .paused => 6

/-- R87: the standby's claimed voices in rising number (log 32), each as label, voice and state, and its waiting labels. -/
def standbyItems (s : State) (l : Nat) : List Field :=
  match (listOf s l).standby with
  | none => [u1 0, u1 0]
  | some n =>
    let vs := standbyVoices s l n
    let ws := s.ve.waits.filter (fun w => w.list == l && w.number == n)
    [u1 vs.length] ++ vs.flatMap (fun v => [u1 (match (voiceOf s v).claimant with | some (.standby _ _ label) => label | _ => 0), u1 v,
        u1 (voiceStateCode (voiceOf s v).state)])
      ++ [u1 ws.length] ++ ws.map (fun w => u1 w.label)

/-- R87: ReadList. -/
def listRecordAnswer (l : Nat) (s : State) : Answer :=
  if 3 < l then refuse .invalid
  else
    let q := listOf s l
    okWith ([u1 (listStateCode q.state), o4 q.standby] ++ pendingItems q.trigger ++ [u1 q.running.length] ++ q.running.flatMap runningItems
      ++ [u4 q.takes, u4 q.guard, flag q.promptGo, o4 q.sinceGo] ++ standbyItems s l)

/-! ## The commands -/

/-- POST_CUE (R64) -/
def runPostCue (h : Hdr) (c : CueArgs) : State → State := answerWith h false (doPostCue c)
/-- REPLACE_CUE (R65) -/
def runReplaceCue (h : Hdr) (c : CueArgs) : State → State := answerWith h false (doReplaceCue c)
/-- RETIRE_CUE (R66) -/
def runRetireCue (h : Hdr) (list number : Nat) : State → State := answerWith h false (doRetireCue list number)
/-- READ_CUE (R67) -/
def runReadCue (h : Hdr) (list number : Nat) (atOrAfter : Bool) : State → State :=
  answerWith h true (reading (readCueAnswer list number atOrAfter))
/-- SET_STANDBY (R71) -/
def runSetStandby (h : Hdr) (list number : Nat) : State → State := answerWith h false (doSetStandby list number)
/-- SET_LIST_CONFIG (R74) -/
def runSetListConfig (h : Hdr) (list : Nat) (guard : Option Nat) (promptGo : Option Bool) : State → State :=
  answerWith h false (doSetListConfig list guard promptGo)
/-- READ_LIST (R87) -/
def runReadList (h : Hdr) (list : Nat) : State → State := answerWith h true (reading (listRecordAnswer list))
/-- GO (R73) -/
def runGo (h : Hdr) (list : Nat) : State → State := answerWith h true (doGo h list)
/-- GO_LINK (R73): a GO by hand with no reply; there are four lists. -/
def execGoLink (list : Nat) (s : State) : Result :=
  if list < 4 then .next (deliver (.go list) (fun _ s => (goByHand list s).1) s) else .fault .noSuchUnit
/-- EVENT_TRIGGER_ARRIVAL (R82) -/
def execEventTriggerArrival (list : Nat) (s : State) : Result :=
  if list < 4 then .next (deliver (.trigger list) (armEvent list) s) else .fault .noSuchUnit

end Sys2Proof.Machine
end

