-- ==== Sys2Proof/Machine/ClipRequests.lean ====
section
/-! DEFINITION. The requests of the clip directory, the sample memory and the voices (R111 to R113, R117, R124) and their commands. Reply
layouts: log 19. -/

namespace Sys2Proof.Machine

/-- The number of voices that hold a clip (R111). -/
def holders (s : State) (id : Nat) : Nat :=
  ((List.range 32).filter (fun v => decide ((voiceOf s v).state ≠ .free) && (voiceOf s v).clip == id)).length

/-- Check 1 of R111. -/
def badClip (c : ClipArgs) : Bool :=
  511 < c.id || c.len == 0 || 67108864 < c.len || (match c.loop with | some (a, e) => e ≤ a || c.len < e | none => false)

/-- The clip record of a PostClip, its trim clamped (R111). -/
def clipRecord (c : ClipArgs) : Clip := ⟨c.addr, c.len, c.loop, clampInt (-256) 256 c.trim, c.prot⟩

/-- R111: PostClip. -/
def doPostClip (c : ClipArgs) (s : State) : State × Answer :=
  if badClip c then (s, refuse .invalid)
  else if s.smp.size < c.addr + c.len then (s, refuse .range)
  else
    let taken := ({ s with ve := { s.ve with clips := s.ve.clips.store c.id (clipRecord c) } },
      okAdj (decide (clampInt (-256) 256 c.trim ≠ c.trim)) [])
    match clipOf s c.id with
    | none => taken
    | some old =>
      if !c.replace then (s, refuse .exists)
      else if old.prot && guarded s then (s, refuse .locked)
      else if 0 < holders s c.id ∧ (old.addr ≠ c.addr ∨ old.len ≠ c.len ∨ old.loop ≠ c.loop) then (s, refuse .busy)
      else taken

/-- R112: RetireClip. -/
def doRetireClip (id : Nat) (s : State) : State × Answer :=
  if 511 < id then (s, refuse .invalid)
  else match clipOf s id with
    | none => (s, refuse .notfound)
    | some c =>
      if c.prot && guarded s then (s, refuse .locked)
      else if 0 < holders s id then (s, refuse .busy)
      else ({ s with ve := { s.ve with clips := s.ve.clips.remove id } }, okWith [])

/-- R112: ReadClip. -/
def clipAnswer (id : Nat) (s : State) : Answer :=
  if 511 < id then refuse .invalid
  else match clipOf s id with
    | none => refuse .notfound
    | some c =>
      let (a, e) := c.loop.getD (0, 0)
      okWith [u2 id, u4 c.addr, u4 c.len, flag c.loop.isSome, u4 a, u4 e, s2 c.trim, flag c.prot, u2 (holders s id)]

/-- Check 3 of R113: the words overlap the region of a protected clip. -/
def overlapsProtected (s : State) (addr count : Nat) : Bool :=
  s.ve.clips.any (fun p => p.2.prot && decide (addr < p.2.addr + p.2.len) && decide (p.2.addr < addr + count))

/-- R113: the refusal of a WriteSamples, if any. -/
def writeRefusal (s : State) (addr : Nat) (words : List Sample) : Option Code :=
  if words.length < 1 ∨ 254 < words.length then some .invalid
  else if s.smp.size < addr + words.length then some .range
  else if guarded s && overlapsProtected s addr words.length then some .locked
  else none

/-- R113, R190: a WriteSamples taken: refused at once, or held by the arbiter with port A waiting for its transfer. -/
def startWrite (h : Hdr) (addr : Nat) (words : List Sample) (s : State) : State :=
  if h.port = .b then reply h (refuse .denied) s
  else match writeRefusal s addr words with
    | some c => reply h (refuse c) s
    | none =>
      grant (updPort .a (fun x => { x with inProgress := some h.tag })
        { s with smp := { s.smp with write := some ⟨addr, words, h.tag⟩ } })

/-- R124: SetPauseRamp. -/
def doSetPauseRamp (ramp : Nat) (s : State) : State × Answer :=
  ({ s with ve := { s.ve with pauseRamp := min ramp 2000 } }, okAdj (decide (2000 < ramp)) [])

/-- A claimant as read: kind (0 none, 1 standby, 2 running, 3 call), list or call, number, label. -/
def claimantItems : Option Claimant → List Field
  | none => [u1 0, u1 0, u4 0, u1 0]
  | some (.standby l n label) => [u1 1, u1 l, u4 n, u1 label]
  | some (.running l t label) => [u1 2, u1 l, u4 t, u1 label]
  | some (.call c) => [u1 3, u1 c, u4 0, u1 0]

/-- A voice fade as read, with a present byte. -/
def voiceFadeItems : Option VoiceFade → List Field
  | none => [u1 0]
  | some f => [u1 1, lev f.a, lev f.b, u4 f.dur, u4 f.n, flag f.startedBy.isSome]
      ++ (match f.startedBy with | some b => [u1 b.list, u4 b.take] | none => [u1 0, u4 0])

/-- A pause ramp as read, with a present byte; its state before pause as `voiceStateCode` gives it. -/
def rampItems : Option PauseRamp → List Field
  | none => [u1 0]
  | some p => [u1 1, u4 p.r, u4 p.dur, u1 p.up.toNat, u1 (voiceStateCode (if p.stopping then .stopping else .playing))]

/-- The voice level the voice gives for the frame (R122, R124): its level under a pause ramp. -/
def shownLevel (v : Voice) : Level :=
  match v.ramp with
  | none => v.level
  | some p => rampLevel v.level p

/-- R117: ReadVoice: every field of TABLE 6-2 and the buffer's fill. -/
def voiceAnswer (n : Nat) (s : State) : Answer :=
  if 31 < n then refuse .invalid
  else
    let v := voiceOf s n
    okWith ([u1 n, u1 (voiceStateCode v.state)] ++ claimantItems v.claimant ++ [u2 v.clip, u4 v.offset,
      u1 (match v.mode with | .once => 0 | .vamp => 1 | .cycle => 2), u1 (match v.phase with | .before => 0 | .inLoop => 1 | .tail => 2),
      flag v.exitPending, u1 v.cls, lev (shownLevel v), s2 v.startLevel, u4 v.fadeIn] ++ voiceFadeItems v.fade ++ rampItems v.ramp
      ++ [u4 v.play, u4 v.fetch, u4 v.pos, flag v.startDue, flag v.startAligned, flag v.adjusted, u2 v.underruns, flag v.inUnderrun,
      u2 v.buffer.length])

/-- POST_CLIP (R111) -/
def runPostClip (h : Hdr) (c : ClipArgs) : State → State := answerWith h false (doPostClip c)
/-- RETIRE_CLIP (R112) -/
def runRetireClip (h : Hdr) (id : Nat) : State → State := answerWith h false (doRetireClip id)
/-- READ_CLIP (R112) -/
def runReadClip (h : Hdr) (id : Nat) : State → State := answerWith h true (reading (clipAnswer id))
/-- WRITE_SAMPLES (R113) -/
def runWriteSamples (h : Hdr) (addr : Nat) (words : List Sample) : State → State := startWrite h addr words
/-- SET_PAUSE_RAMP (R124) -/
def runSetPauseRamp (h : Hdr) (ramp : Nat) : State → State := answerWith h false (doSetPauseRamp ramp)
/-- READ_VOICE (R117) -/
def runReadVoice (h : Hdr) (voice : Nat) : State → State := answerWith h true (reading (voiceAnswer voice))

end Sys2Proof.Machine
end

