-- ==== Sys2Proof/Machine/Boundary.lean ====
section
/-! DEFINITION. The work of a frame boundary (R34): voices (R119, R122, R124, R125), batches (R54, R55, R60), routes (R37 to R39, R30 to
R33), crosspoints (R40), flags (R45), and the frame counts of inputs, timers, lists, calls and the meter window. What a boundary brings to
its end is only marked due here; the row that ends it is taken after it (log 1). -/

namespace Sys2Proof.Machine

/-! ## Voices -/

/-- R122: a voice fade at one boundary, not advanced while the show is stopped. -/
def stepVoiceFade (stopped : Bool) (v : Voice) : Voice :=
  match v.fade with
  | none => v
  | some f =>
    if (v.state = .playing ∨ v.state = .stopping) ∧ stopped = false then
      let f := { f with n := advance f.dur f.n }
      { v with fade := some f, level := voiceFadeLevel f }
    else v

/-- R124, R125: a pause ramp at one boundary. -/
def stepRamp (v : Voice) : Voice :=
  match v.ramp with
  | none => v
  | some p =>
    if p.up then { v with ramp := some { p with r := p.r - 1 } }
    else if v.state = .pausing then { v with ramp := some { p with r := advance p.dur p.r } }
    else v

/-- One voice at one boundary. -/
def stepVoice (stopped : Bool) (v : Voice) : Voice :=
  stepRamp (stepVoiceFade stopped { v with starting := startsNow stopped v, ending := v.atEnd })

/-! ## Batches and routes -/

/-- R54, R55, R60: one batch at one boundary. -/
def stepBatch (b : Batch) : Batch :=
  if b.suspended then b else
    match b.phase with
    | .gathering => { b with count := advance b.window b.count }
    | .fading => { b with n := advance b.dur b.n }

/-- The member entry of a record in its batch. -/
def memberOf (ru : RetirementUnit) (h : Nat) (r : Route) : Option (Batch × Member) :=
  match r.batch with
  | none => none
  | some b => (match ru.batches.find b with
    | none => none
    | some x => (x.members.find? (fun m => m.handle == h)).map (fun m => (x, m)))

/-- R55, R60: the level a batch gives a member at its count. -/
def memberLevel (m : Rounding) (b : Batch) (x : Member) (held : Level) : Level :=
  match b.phase, x.start with
  | .gathering, _ => held
  | .fading, .off => .off
  | .fading, .step n => fadeLevel b.curve m (.step n) .off b.dur b.n

/-- R38: a base fade of CUE origin does not advance while the show is stopped. -/
def frozen (stopped : Bool) (f : BaseFade) : Bool :=
  stopped && (match f.origin with | .cue _ => true | _ => false)

/-- R34 step 1: the base fade, or the batch in its place. -/
def stepBase (s : State) (h : Nat) (r : Route) : Route :=
  let m := (setOf s r.set).rounding
  match memberOf s.ru h r with
  | some (b, x) => { r with base := memberLevel m b x r.base }
  | none =>
    match r.fade with
    | none => r
    | some f =>
      let f := if frozen s.ss.stopped f then f else { f with n := advance f.dur f.n }
      { r with fade := some f, base := fadeLevel f.curve m f.a f.b f.dur f.n }

/-- R34 step 2, R39: the duck fade. -/
def stepDuck (r : Route) : Route :=
  match r.duckFade with
  | none => r
  | some f =>
    let f := { f with n := advance f.dur f.n }
    { r with duckFade := some f, duck := duckAt f }

/-- R34 steps 1 to 3: a record with its last effective level, and the flags it met. -/
def stepRoute (s : State) (h : Nat) (r : Route) : Route × Flags :=
  let r := stepDuck (stepBase s h r)
  let e := effectiveOf s r
  ({ r with last := some e.level }, e.flags)

/-- Every record at one boundary, with the flags each met. -/
def steppedRoutes (s : State) : List (Nat × Route × Flags) := s.rt.routes.map (fun p => (p.1, stepRoute s p.1 p.2))

/-! ## Crosspoints and flags -/

/-- The number of a crosspoint. -/
def crossKey (src dst : Nat) : Nat := src * 72 + dst

/-- R40: the code written last is in force at the end of the frame; a crosspoint with no record is written 0 (R34).
A boundary ramps from the code written last in mid-frame too, where the word clock stopped (log 45). -/
def turnCrosspoint (c : Crosspoint) : Crosspoint := ⟨c.written, 0⟩

/-- R34 step 4: the record's gain code is written to its crosspoint. -/
def writeGain (t : Table Crosspoint) (r : Route) : Table Crosspoint :=
  t.write Crosspoint.init (crossKey r.src r.dst)
    { t.read Crosspoint.init (crossKey r.src r.dst) with written := gainCode (r.last.getD .off) }

/-- R34, R40: every crosspoint at one boundary; one whose record was released and another made on its key since the last boundary ramps from the
old record's code (log 49). -/
def stepCrosspoints (t : Table Crosspoint) (routes : List (Nat × Route)) : Table Crosspoint :=
  routes.foldl (fun t p => writeGain t p.2) (t.mapWrite Crosspoint.init (fun _ => turnCrosspoint))

/-- R45: the flags the routes met in status set `n`, and OVER of the destinations that saturated in the frame just ended (R41). -/
def metIn (s : State) (stepped : List (Nat × Route × Flags)) (n : Nat) : Flags :=
  let f := stepped.foldl (fun f p => if p.2.1.set = n then f.or p.2.2 else f) Flags.none
  { f with ovr := f.ovr || s.le.overDsts.any (fun p => p.2 && dstSet s p.1 == n) }

/-- The route table and level engine at one boundary. The sets that raise STATUS at it do so in rising number, LS0 to LS3 (log 43). -/
def stepLevels (s : State) : State :=
  let stepped := steppedRoutes s
  let routes := stepped.map (fun p => (p.1, p.2.1))
  let met := (List.range 4).map (fun n => (n, metIn s stepped n))
  let s := { s with
    rt := { s.rt with routes := routes }
    le := { s.le with crosspoints := stepCrosspoints s.le.crosspoints routes, overDsts := [], sample := 0 } }
  met.foldl (fun s p => meetFlags p.1 p.2 s) s

/-! ## Counts -/

/-- A saturating frame count that may be none. -/
def countUp (limit : Nat) (c : Option Nat) : Option Nat := c.map (fun n => min (n + 1) limit)

/-- The frames since the last accepted change of the polarity `up`. -/
def sinceOf (c : ContactIn) (up : Bool) : Option Nat := if up then c.sinceRise else c.sinceFall

/-- R169: the limiter lets a change of the polarity through. -/
def letThrough (c : ContactIn) (up : Bool) : Bool :=
  !c.limiter || (match sinceOf c up with | none => true | some n => decide (c.settle ≤ n))

/-- R169: one input at one boundary. -/
def stepInput (c : ContactIn) : ContactIn :=
  let c := { c with sinceRise := countUp 250 c.sinceRise, sinceFall := countUp 250 c.sinceFall }
  { c with settleDue := c.waiting && (c.raw != c.settled) && letThrough c c.raw }

/-- R80, R83: one pending trigger at one boundary. -/
def stepTrigger (stopped : Bool) (p : Pending) : Pending :=
  match p.phase with
  | .awaiting _ => p
  | .counting c =>
    if stopped then p else
      let c := advance p.delay c
      { p with phase := .counting c, due := reached p.delay c }

/-- R74, R80: one list at one boundary. -/
def stepList (stopped : Bool) (q : CueList) : CueList :=
  { q with sinceGo := countUp 65535 q.sinceGo, trigger := q.trigger.map (stepTrigger stopped) }

/-- R158: one call at one boundary. -/
def stepCall (c : Call) : Call :=
  if c.active = false ∧ 0 < c.maxWait then { c with wait := min (c.wait + 1) c.maxWait } else c

/-- R168: every timer's count at one boundary. -/
def stepTimers (t : Table Nat) : Table Nat := (List.range 4).foldl (fun t i => t.write 0 i (t.read 0 i + 1)) t

/-- The frame counts of every block at one boundary (R42, R74, R80, R158, R168, R169). -/
def stepCounts (s : State) : State :=
  { s with
    ef := { s.ef with
      inputs := s.ef.inputs.mapWrite ContactIn.init (fun _ => stepInput)
      timers := stepTimers s.ef.timers }
    cq := { s.cq with lists := s.cq.lists.mapWrite CueList.init (fun _ => stepList s.ss.stopped) }
    rl := { s.rl with calls := s.rl.calls.mapAll (fun _ => stepCall) }
    le := { s.le with window := (s.le.window + 1) % 10, windowDue := s.le.windowDue || (s.le.window + 1) % 10 == 0 } }

/-- R34 and the other blocks' work of one boundary, one cause (R165). -/
def frameBoundary (s : State) : State :=
  let s := beginBoundary s
  let s := { s with
    ve := { s.ve with voices := s.ve.voices.mapWrite Voice.init (fun _ => stepVoice s.ss.stopped) }
    ru := { s.ru with batches := s.ru.batches.mapAll (fun _ => stepBatch) } }
  s |> stepLevels |> stepCounts

end Sys2Proof.Machine
end

