-- ==== Sys2Proof/Machine/Audio.lean ====
section
/-! DEFINITION. One sample period (R25, R26, R40 to R42, R120, R123) and the end of a sample memory transfer (R113 to R115). -/

namespace Sys2Proof.Machine

/-! ## Playing -/

/-- R120: the position moves on after one sample of clip `c` is played. -/
def movePosition (c : Clip) (v : Voice) : Voice :=
  let q := v.pos + 1
  match v.mode, c.loop, v.phase with
  | .once, _, _ => { v with pos := q, atEnd := decide (c.len ≤ q) }
  | _, none, _ => { v with pos := q, atEnd := decide (c.len ≤ q) }
  | _, some _, .tail => { v with pos := q, atEnd := decide (c.len ≤ q) }
  | _, some (a, _), .before => { v with pos := q, phase := if a ≤ q then .inLoop else .before }
  | _, some (a, e), .inLoop =>
    if q < e then { v with pos := q }
    else if v.exitPending then { v with pos := e, phase := .tail, atEnd := decide (c.len ≤ e) }
    else { v with pos := a }

/-- A voice that plays in this sample period: consuming, and not yet at its clip end (R126: the rest of that frame is zero). -/
def playing (v : Voice) : Bool := consumes v && !v.atEnd

/-- TABLE 6-3, R123: the sample a voice produces. -/
def produced (v : Voice) : Int := if playing v then (match v.buffer with | x :: _ => x.toInt | [] => 0) else 0

/-- R115, R123: a playing voice after one sample period. -/
def playedVoice (c : Clip) (v : Voice) : Voice :=
  if playing v then
    match v.buffer with
    | _ :: rest => movePosition c { v with buffer := rest, play := v.play + 1, inUnderrun := false }
    | [] => movePosition c { v with
        play := v.play + 1, fetch := v.fetch + 1, inUnderrun := true
        underruns := if v.inUnderrun then v.underruns else min (v.underruns + 1) 255 }
  else v

/-- R123: this sample period begins an underrun episode. -/
def episode (v : Voice) : Bool := playing v && v.buffer.isEmpty && !v.inUnderrun

/-- One voice plays one sample; an episode raises UNDERRUN; a refill is asked for (R115). -/
def playVoice (n : Nat) (s : State) : State :=
  let v := voiceOf s n
  let s' := updVoice n (playedVoice (voiceClip s v)) s
  makeRequest n (if episode v then raise .underrun (.num n) s' else s')

/-! ## Mixing -/

/-- R25: the sample of a source other than PGMT. -/
def sourceSample (s : State) (lanes : List Sample) (src : Nat) : Int :=
  if isVoice src then produced (voiceOf s (src - 64))
  else if isAnnounce src then (lanes.getD (src - 32) 0).toInt
  else (lanes.getD src 0).toInt

/-- R40: the ramped gain of a crosspoint for sample `j`, times 48. -/
def rampedGain (j : Nat) (c : Crosspoint) : Nat := c.inForce * (47 - j) + c.written * (j + 1)

/-- R40: the total into destination `d`, rounded toward minus infinity once. -/
def mixTotal (t : Table Crosspoint) (j : Nat) (x : Nat → Int) (d : Nat) : Int :=
  ((t.filter (fun p => p.1 % 72 = d)).foldl (fun sum p => sum + x (p.1 / 72) * rampedGain j p.2) 0) / (48 * 2 ^ 20)

/-- R41: a total saturated. -/
def saturate (x : Int) : Int := clampInt (-8388607) 8388607 x

/-- R42: the peaks after one more sample of every source. -/
def addPeaks (x : Nat → Int) (t : Table Nat) : Table Nat :=
  (List.range 101).foldl (fun t src => t.write 0 src (max (t.read 0 src) (magnitude (x src)))) t

/-- R25, R26, R40 to R42: the level engine's part of one sample period. -/
def mixSample (lanes : List Sample) (s : State) : State :=
  let j := min s.le.sample 47
  let x := sourceSample s lanes
  let tap := saturate (mixTotal s.le.crosspoints j x pgm)
  let y := fun src => if src = pgmt then tap else x src
  let totals := (List.range 72).map (mixTotal s.le.crosspoints j y)
  let overs := (List.range 72).filter (fun d => totals.getD d 0 ≠ saturate (totals.getD d 0))
  { s with le := { s.le with
      outputs := totals.map saturate ++ List.replicate 8 0
      overDsts := overs.foldl (fun t d => t.write false d true) s.le.overDsts
      peaks := addPeaks y s.le.peaks
      sample := min (s.le.sample + 1) 48 } }

/-- One sample period: the mix of what the voices produce, and the voices moved on, their underruns raised and their requests made in rising
voice number (log 41). -/
def samplePeriod (lanes : List Sample) (s : State) : State := s |> mixSample lanes |> forEach (List.range 32) playVoice

/-! ## Transfers -/

/-- R115, R121: the path counts a transfer brings to a voice that has fetched `f`. -/
def broughtCounts (f start count : Nat) (cap : Option Nat) : List Nat :=
  let last := match cap with | some x => min (start + count) x | none => start + count
  (List.range (last - max f start)).map (fun i => max f start + i)

/-- The clip sample at path count `k`, from sample memory. -/
def fetchSample (s : State) (v : Voice) (k : Nat) : Sample :=
  s.smp.memory.sampleAt ((voiceClip s v).addr + pathSample (voiceClip s v) v k)

/-- R115, R121: a transfer's samples join the buffer, and the fetch count its end, those of a voice that became PAUSED meanwhile too (log 35). -/
def filledVoice (s : State) (start count : Nat) (cap : Option Nat) (v : Voice) : Voice :=
  { v with
    buffer := v.buffer ++ (broughtCounts v.fetch start count cap).map (fetchSample s v)
    fetch := max v.fetch (match cap with | some x => min (start + count) x | none => start + count) }

/-- R113 to R115: the transfer in progress completes, and the next grant is made. A voice that became PAUSED while it ran is filled like any other
(log 35). -/
def completeTransfer (s : State) : State :=
  match s.smp.transfer with
  | none => s
  | some (.fetch n start count cap stale) =>
    let s' := { s with smp := { s.smp with transfer := none } }
    if stale then s' |> makeRequest n |> grant
    else s' |> updVoice n (filledVoice s start count cap) |> completePreload n |> makeRequest n |> grant
  | some (.write w) =>
    { s with smp := { s.smp with transfer := none, memory := s.smp.memory.putAll w.addr w.words } }
      |> updPort .a (fun x => { x with inProgress := none })
      |> reply ⟨.a, w.tag⟩ (okWith [])
      |> grant

end Sys2Proof.Machine
end

