-- ==== Sys2Proof/Machine/Dues.lean ====
section
/-! DEFINITION. What comes due at a frame boundary and is a step of its own: ends of fades, windows, batches, ramps, voices, meter windows,
timers, waits and settle intervals (log 1). A step that is not due changes nothing (log 5). -/

namespace Sys2Proof.Machine

/-! ## Routes and batches -/

/-- R37: the base fade in slot `h` has reached its duration. -/
def baseFadeDue (s : State) (h : Nat) : Option (Route × BaseFade) :=
  match routeAt s h with
  | none => none
  | some r => (match r.fade with
    | none => none
    | some f => if baseFadeEnds r then some (r, f) else none)

/-- R37: the fade completes; a degraded retire's record is then released by the retirement unit (R52). -/
def endBaseFade (h : Nat) (s : State) : State :=
  match baseFadeDue s h with
  | none => s
  | some (r, f) =>
    let s := s |> updRoute h (fun x => { x with base := f.b, fade := none }) |> settle f.startedBy
    if r.state = .retiring ∧ r.batch = none then releaseRoute h s else s

/-- R39: the duck becomes the target and the duck fade is removed. -/
def endDuck (r : Route) : Route :=
  match r.duckFade with
  | none => r
  | some f => if duckFadeEnds r then { r with duck := f.b, duckFade := none } else r

/-- R54: the from level of each member is the base it holds, and the batch becomes FADING. -/
def openFade (s : State) (b : Batch) : Batch :=
  { b with phase := .fading, n := 0
           members := b.members.map (fun m => { m with start := ((routeAt s m.handle).map (·.base)).getD .off }) }

/-- R54: a GATHERING batch whose window count has reached its window. -/
def expireWindow (id : Nat) (s : State) : State :=
  match s.ru.batches.find id with
  | none => s
  | some b =>
    if windowEnds b then
      { s with ru := { s.ru with batches := s.ru.batches.store id (openFade s b) } }
    else s

/-- R56 step 2: one member is released, its level OFF; leaving the batch settles its started-by. -/
def completeMember (h : Nat) (s : State) : State := s |> updRoute h (fun r => { r with base := .off }) |> releaseRoute h

/-- R56: a FADING batch at its duration: its members are released in list order, and it becomes FREE with the last. -/
def completeBatch (id : Nat) (s : State) : State :=
  match s.ru.batches.find id with
  | none => s
  | some b =>
    if batchEnds b then forEach (b.members.map (·.handle)) completeMember s else s

/-! ## Voices -/

/-- R119 steps 1 and 2, and the clearing of the start marks. -/
def startedVoice (v : Voice) : Voice :=
  { v with
    state := .playing
    level := firstLevel v
    fade := if v.fadeIn = 0 then none else some ⟨.off, .step v.startLevel, v.fadeIn, 1, v.fadeInBy⟩
    fadeInBy := none, startAligned := false, startDue := false, starting := false }

/-- R119: a voice whose start is due at this boundary starts. -/
def startVoice (n : Nat) (s : State) : State :=
  let v := voiceOf s n
  if voiceStarts s.ss.stopped v then
    let s := updVoice n startedVoice s
    let s := match v.claimant with
      | some (.running l take _) => if v.startDue then settleLate l take s else s
      | some (.call slot) => updCall slot (fun c => { c with started := true }) s
      | _ => s
    makeRequest n s
  else s

/-- R126: a voice that reached its clip end ends: a recorded call is told, the voice is freed and handed on. -/
def endVoice (n : Nat) (s : State) : State :=
  let v := voiceOf s n
  if voiceEnds v then
    let s := settleVoice n s
    let s := match v.claimant with
      | some (.call slot) => endCall slot s
      | _ => s
    let s := clearVoice n s
    match offerTo s.ve.waits s with
    | (s, true) => scan s
    | (s, false) => s
  else s

/-- R122: a voice fade that has reached its duration. A STOP fade ends the voice (R126, which settles its started-by). -/
def endVoiceFade (n : Nat) (s : State) : State :=
  match (voiceOf s n).fade with
  | none => s
  | some f =>
    if voiceFadeEnds (voiceOf s n) then
      if f.b = .off then releaseVoice n (updVoice n (fun v => { v with level := .off }) s)
      else s |> updVoice n (fun v => { v with level := f.b, fade := none }) |> settle f.startedBy
    else s

/-- R124: a DOWN ramp that has reached its duration makes the voice PAUSED; a request it still holds is kept and may be granted (log 35). -/
def pausedVoice (v : Voice) : Voice := if rampDownEnds v then { v with state := .paused } else v

/-- R125: an UP ramp that has reached 0 is removed. -/
def unrampedVoice (v : Voice) : Voice := if rampUpEnds v then { v with ramp := none } else v

/-! ## Meters, timers, calls, contacts, triggers -/

/-- R42: the window ends: every meter is set from its peak, and a new window's peaks begin. -/
def endMeterWindow (s : State) : State :=
  if s.le.windowDue then
    { s with le := { s.le with
        meters := (s.le.peaks.map (fun p => (p.1, meterOf p.2))).filter (fun p => p.2 ≠ .off)
        peaks := [], windowDue := false } }
  else s

/-- R168: a timer whose count has reached its period returns to 0 and emits its event. -/
def endTimerPeriod (t : Nat) (s : State) : State :=
  if timerEnds s t then s |> setTimer t (timerOf s t - timerPeriodOf t) |> emit (64 + t) else s

/-- R158: a QUEUED call that has waited its max wait is removed. -/
def expireCall (slot : Nat) (s : State) : State :=
  match callOf s slot with
  | none => s
  | some c =>
    if callExpires c then s |> removeCall slot |> raise .callExpired (.num slot) else s

/-- R169: at acceptance the settled level becomes the raw level, and the frame count of its polarity 0. -/
def acceptedInput (c : ContactIn) : ContactIn :=
  { c with settled := c.raw, waiting := false, settleDue := false
           sinceRise := if c.raw then some 0 else c.sinceRise
           sinceFall := if c.raw then c.sinceFall else some 0 }

/-- R109, R169: the mirror condition takes the accepted level. -/
def mirror (c : ContactIn) (s : State) : State :=
  match c.mirror with
  | none => s
  | some m => writeCond m c.raw s

/-- R169: the enable of the accepted polarity. -/
def enabledFor (c : ContactIn) : Bool := if c.raw then c.rise else c.fall

/-- R169: a change is accepted: settled level and count, mirror, then the enabled edge events. -/
def acceptChange (line : Nat) (s : State) : State :=
  let c := inputOf s line
  let s := s |> updInput line acceptedInput |> mirror c
  if enabledFor c then s |> emit (if c.raw then 1 + line else 17 + line) |> emit (33 + line) else s

/-- R169: a raw change as it arrives. -/
def changeContact (line : Nat) (level : Bool) (s : State) : State :=
  let c := inputOf s line
  if level = c.raw then s
  else if level = c.settled then updInput line (fun c => { c with raw := level, waiting := false, settleDue := false }) s
  else if letThrough c level then acceptChange line (updInput line (fun c => { c with raw := level }) s)
  else updInput line (fun c => { c with raw := level, waiting := true, settleDue := false }) s

/-- R169: a waiting change that a boundary found acceptable. -/
def settleContact (line : Nat) (s : State) : State := if (inputOf s line).settleDue then acceptChange line s else s

/-- R82, R164: the depth that an automatic GO's events carry. -/
def triggerDepth (p : Pending) : Nat :=
  match p.kind with
  | .event d => d + 1
  | _ => 1

/-- R80: an automatic GO of the list's standby, of the boundary's work (R165). -/
def triggerGo (l : Nat) (s : State) : State :=
  match dueTrigger s l with
  | none => s
  | some p => (takeCue l (rejoin (triggerDepth p) s)).1

/-- R179: a change of the rehearsal key line; KEY's subject is 1 for asserted, 0 for released (log 19). -/
def changeKey (level : Bool) (s : State) : State :=
  if level = s.ss.key then s
  else { s with ss := { s.ss with key := level } } |> emit (if level then 180 else 181) |> raise .key (.num level.toNat)

end Sys2Proof.Machine
end

