-- ==== Sys2Proof/Machine/Clock.lean ====
section
/-! DEFINITION. The commands of the clocks: sample period, frame boundary, the steps a boundary brings due (log 1), the end of a transfer,
and the contact and key lines. A command that names a unit beyond the part's last faults (log 29). -/

namespace Sys2Proof.Machine

/-- A step of one of `n` units, numbered from 0, that is part of the work of the last boundary (R165). -/
def unitStep (n i : Nat) (act : State → State) (s : State) : Result := if i < n then .next (act (rejoin 1 s)) else .fault .noSuchUnit

/-- SAMPLE_PERIOD (R25) -/
def execSamplePeriod (lanes : List Sample) (s : State) : Result := .next (samplePeriod lanes s)
/-- FRAME_BOUNDARY (R34) -/
def execFrameBoundary (s : State) : Result := .next (frameBoundary s)
/-- BASE_FADE_COMPLETE (R37) -/
def execBaseFadeComplete (handle : Nat) (s : State) : Result := unitStep Config.routeSlots handle (endBaseFade handle) s
/-- DUCK_FADE_COMPLETE (R39) -/
def execDuckFadeComplete (handle : Nat) (s : State) : Result := unitStep Config.routeSlots handle (updRoute handle endDuck) s
/-- WINDOW_EXPIRY (R54) -/
def execWindowExpiry (batch : Nat) (s : State) : Result := unitStep 8 batch (expireWindow batch) s
/-- BATCH_COMPLETE (R56) -/
def execBatchComplete (batch : Nat) (s : State) : Result := unitStep 8 batch (completeBatch batch) s
/-- VOICE_START (R119) -/
def execVoiceStart (voice : Nat) (s : State) : Result := unitStep 32 voice (startVoice voice) s
/-- VOICE_END (R126) -/
def execVoiceEnd (voice : Nat) (s : State) : Result := unitStep 32 voice (endVoice voice) s
/-- VOICE_FADE_COMPLETE (R122) -/
def execVoiceFadeComplete (voice : Nat) (s : State) : Result := unitStep 32 voice (endVoiceFade voice) s
/-- PAUSE_RAMP_END (R124) -/
def execPauseRampEnd (voice : Nat) (s : State) : Result := unitStep 32 voice (updVoice voice pausedVoice) s
/-- PAUSE_RAMP_UP_END (R125) -/
def execPauseRampUpEnd (voice : Nat) (s : State) : Result := unitStep 32 voice (updVoice voice unrampedVoice) s
/-- TRIGGER_DUE (R80) -/
def execTriggerDue (list : Nat) (s : State) : Result := if list < 4 then .next (triggerGo list s) else .fault .noSuchUnit
/-- METER_WINDOW (R42) -/
def execMeterWindow (s : State) : Result := .next (endMeterWindow s)
/-- TIMER_PERIOD (R168) -/
def execTimerPeriod (timer : Nat) (s : State) : Result := unitStep 4 timer (endTimerPeriod timer) s
/-- CALL_EXPIRED (R158) -/
def execCallExpired (slot : Nat) (s : State) : Result := unitStep 16 slot (expireCall slot) s
/-- CONTACT_CHANGE (R169) -/
def execContactChange (line : Nat) (level : Bool) (s : State) : Result :=
  if line < 16 then .next (changeContact line level (begin 1 s)) else .fault .noSuchUnit
/-- CONTACT_SETTLE (R169) -/
def execContactSettle (line : Nat) (s : State) : Result := unitStep 16 line (settleContact line) s
/-- KEY_CHANGE (R179) -/
def execKeyChange (level : Bool) (s : State) : Result := .next (changeKey level (begin 1 s))

end Sys2Proof.Machine
end

