-- ==== Sys2Proof/Machine/ConditionRequests.lean ====
section
/-! DEFINITION. The condition file's requests and links (R108, R109) and their commands. -/

namespace Sys2Proof.Machine

/-- R108: SetCondition. -/
def doSetCondition (h : Hdr) (c : Nat) (v : Bool) (s : State) : State × Answer :=
  if c = 0 ∨ 31 < c then (s, refuse .invalid)
  else if h.port = .b ∧ c < 16 then (s, refuse .denied)
  else (writeCond c v s, okWith [flag v])

/-- R108: SetConditionPreset; INVALID before LOCKED (log 30). -/
def doSetConditionPreset (c : Nat) (v : Bool) (s : State) : State × Answer :=
  if c = 0 ∨ 31 < c then (s, refuse .invalid)
  else if guarded s then (s, refuse .locked)
  else ({ s with cf := { s.cf with presets := s.cf.presets.write false c v } }, okWith [])

/-- R108: ReadConditions. -/
def conditionsAnswer (s : State) : Answer :=
  okWith ([u1 32] ++ (List.range 32).flatMap (fun c => [flag (condOf s c), flag (presetOf s c)]))

/-- R109: SetConditionLink. -/
def doSetConditionLink (link eventId cond : Nat) (v : Bool) (s : State) : State × Answer :=
  if 7 < link ∨ 31 < cond then (s, refuse .invalid)
  else if guarded s then (s, refuse .locked)
  else ({ s with cf := { s.cf with links := s.cf.links.write CondLink.init link ⟨eventId, cond, v⟩ } }, okWith [])

/-- R109: a delivery writes the link's value to its condition. -/
def writeLink (link : Nat) (s : State) : State :=
  writeCond (s.cf.links.read CondLink.init link).cond (s.cf.links.read CondLink.init link).value s

/-- SET_CONDITION (R108) -/
def runSetCondition (h : Hdr) (cond : Nat) (value : Bool) : State → State := answerWith h true (doSetCondition h cond value)
/-- SET_CONDITION_PRESET (R108) -/
def runSetConditionPreset (h : Hdr) (cond : Nat) (value : Bool) : State → State := answerWith h false (doSetConditionPreset cond value)
/-- READ_CONDITIONS (R108) -/
def runReadConditions (h : Hdr) : State → State := answerWith h true (reading conditionsAnswer)
/-- SET_CONDITION_LINK (R109) -/
def runSetConditionLink (h : Hdr) (link eventId cond : Nat) (value : Bool) : State → State :=
  answerWith h false (doSetConditionLink link eventId cond value)
/-- CONDITION_LINK (R109); there are eight links. -/
def execConditionLink (link : Nat) (s : State) : Result :=
  if link < 8 then .next (deliver (.cond link) (fun _ => writeLink link) s) else .fault .noSuchUnit

end Sys2Proof.Machine
end

