-- ==== Sys2Proof/Machine/EventRequests.lean ====
section
/-! DEFINITION. The event fabric's requests (R166, R167, R170 to R172, R174), output functions and watches (R172, R173), and their commands.
Reply layouts: log 19. -/

namespace Sys2Proof.Machine

/-! ## Links and host events -/

/-- R166: SetLink; slots 0 to 3 the lists' GO links, 4 the stop link, 5 the resume link (log 18). -/
def doSetLink (slot eventId : Nat) (s : State) : State × Answer :=
  if guarded s then (s, refuse .locked)
  else if slot < 4 then ({ s with ef := { s.ef with goLinks := s.ef.goLinks.write 0 slot eventId } }, okWith [])
  else if slot = 4 then ({ s with ef := { s.ef with stopLink := eventId } }, okWith [])
  else if slot = 5 then ({ s with ef := { s.ef with resumeLink := eventId } }, okWith [])
  else (s, refuse .invalid)

/-- The slots of the consumers of a family, as they stand. -/
def slotItems (s : State) (n : Nat) (k : Nat → Consumer) : List Field := [u1 n] ++ (List.range n).map (fun i => u2 (slotOf s (k i)))

/-- R166: ReadLinks: every slot of TABLE 9-2 but the EVENT triggers, in the table's order. -/
def linksAnswer (s : State) : Answer :=
  okWith (slotItems s 4 .go ++ slotItems s 8 .fn ++ slotItems s 16 .watch ++ slotItems s 8 .place ++ slotItems s 8 .release
    ++ [u2 s.ef.stopLink, u2 s.ef.resumeLink] ++ slotItems s 8 .cond)

/-- R167: RaiseEvent. -/
def doRaiseEvent (h : Hdr) (e : Nat) (s : State) : State × Answer :=
  if 127 < e then (s, refuse .invalid)
  else if h.port = .b ∧ e < 64 then (s, refuse .denied)
  else (emit (256 + e) s, okWith [])

/-! ## Contacts -/

/-- R170: the input with the given items; an interval above 250 is clamped. -/
def inputWith (q : InputArgs) (c : ContactIn) : ContactIn :=
  { c with
    rise := q.rise.getD c.rise
    fall := q.fall.getD c.fall
    settle := (q.settle.map (min · 250)).getD c.settle
    limiter := q.limiter.getD c.limiter
    mirror := q.mirror.getD c.mirror }

/-- R170: SetContactInput. -/
def doSetContactInput (q : InputArgs) (s : State) : State × Answer :=
  if 15 < q.line || (match q.mirror with | some (some c) => decide (31 < c) | _ => false) then (s, refuse .invalid)
  else if guarded s then (s, refuse .locked)
  else (updInput q.line (inputWith q) s, okAdj (match q.settle with | some n => decide (250 < n) | none => false) [])

/-- An input as read: every field of TABLE 9-3 (R170); a level is sent as a flag, 1 for asserted, and the limiter as 1 for on (log 19). -/
def inputItems (c : ContactIn) : List Field :=
  [flag c.raw, flag c.settled, flag c.rise, flag c.fall, u4 c.settle, flag c.limiter, o1 c.mirror, o4 c.sinceRise, o4 c.sinceFall, flag c.waiting]

/-- An output as read: configured owner, present owner (0 HOST, 1 FUNCTION, 2 RELAY), and its level as a flag, 1 for high (R171, log 19). -/
def outputItems (s : State) (l : Nat) : List Field :=
  let o := outputOf s l
  [u1 o.fnOwned.toNat, u1 (if isLamp s l then 2 else o.fnOwned.toNat), flag o.high]

/-- R170: ReadContacts. -/
def contactsAnswer (s : State) : Answer :=
  okWith ([u1 16] ++ (List.range 16).flatMap (fun i => inputItems (inputOf s i)) ++ [u1 16] ++ (List.range 16).flatMap (outputItems s))

/-- R171: the present owner of a line is HOST. -/
def isHostLine (s : State) (l : Nat) : Bool := !(outputOf s l).fnOwned && !isLamp s l

/-- R171: SetContactOutputs: each HOST line in the mask takes its level; the lines ignored are reported. -/
def doSetContactOutputs (mask levels : BitVec 16) (s : State) : State × Answer :=
  let ignored := (bits 16 mask).filter (fun l => !isHostLine s l)
  (forEach (bits 16 mask) (fun l s =>
      if isHostLine s l then updOutput l (fun o => { o with high := levels.getLsbD l }) s else s) s,
    okWith [u2 (maskOf 16 ignored).toNat])

/-- R171: SetOutputOwner; 0 HOST, 1 FUNCTION. -/
def doSetOutputOwner (mask : BitVec 16) (owner : Nat) (s : State) : State × Answer :=
  if guarded s then (s, refuse .locked)
  else if 1 < owner then (s, refuse .invalid)
  else (forEach (bits 16 mask) (fun l => updOutput l (fun o => { o with fnOwned := owner == 1 })) s, okWith [])

/-- An output function's record. -/
def fnOf (s : State) (f : Nat) : OutputFn := s.ef.fns.read OutputFn.init f

/-- R172: SetOutputFunction. -/
def doSetOutputFunction (f : Nat) (trigger : Option Nat) (setMask clearMask : Option (BitVec 16)) (s : State) : State × Answer :=
  if 7 < f then (s, refuse .invalid)
  else if guarded s then (s, refuse .locked)
  else
    let x := fnOf s f
    let y : OutputFn := ⟨trigger.getD x.trigger, setMask.getD x.setMask, clearMask.getD x.clearMask⟩
    ({ s with ef := { s.ef with fns := s.ef.fns.write OutputFn.init f y } }, okWith [])

/-! ## Watches -/

/-- Watch modes by code (TABLE 9-5). -/
def watchModeOf : Nat → Option WatchMode
  | 0 => some .off
  | 1 => some .once
  | 2 => some .change
  | 3 => some .continuous
  | _ => none

/-- A watch bound clamped into -1472..0 (R174). -/
def clampBound (v : Int) : Int := clampInt (-1472) 0 v

/-- R174: the refused numbers of a SetWatch. -/
def badWatch (q : WatchArgs) : Bool :=
  15 < q.watch || (watchModeOf q.mode).isNone || 1 < q.kind
    || (q.kind == 0 && (!srcOk q.src || decide (q.high < q.low)))
    || (match q.pair with | some (a, b) => badPair a b | none => false)

/-- R174: the watch record that replaces the present one. -/
def watchRecord (q : WatchArgs) : Watch :=
  { kind := if q.kind = 0 then .meter q.src (clampBound q.low) (clampBound q.high) else .contacts q.mask q.pattern
    trigger := q.trigger, mode := (watchModeOf q.mode).getD .off, pair := q.pair, last := none }

/-- R174: a METER watch's bound lies outside its range. -/
def watchAdjusted (q : WatchArgs) : Bool :=
  q.kind == 0 && (decide (clampBound q.low ≠ q.low) || decide (clampBound q.high ≠ q.high))

/-- R174: SetWatch. -/
def doSetWatch (q : WatchArgs) (s : State) : State × Answer :=
  if badWatch q then (s, refuse .invalid)
  else if guarded s then (s, refuse .locked)
  else (updWatch q.watch (fun _ => watchRecord q) s, okAdj (watchAdjusted q) [])

/-- R174: ReadWatch: kind, the parameters of both kinds (0 those of the other, log 19), trigger, mode, pair, last result (0 NONE, 1 TRUE,
2 FALSE). -/
def watchAnswer (w : Nat) (s : State) : Answer :=
  if 15 < w then refuse .invalid
  else
    let x := watchOf s w
    okWith ((match x.kind with
        | .meter src low high => [u1 0, u1 src, s2 low, s2 high, u2 0, u2 0]
        | .contacts m p => [u1 1, u1 0, s2 0, s2 0, u2 m.toNat, u2 p.toNat])
      ++ [u2 x.trigger, u1 (match x.mode with | .off => 0 | .once => 1 | .change => 2 | .continuous => 3)]
      ++ (match x.pair with | some (a, b) => [u1 a, u1 b] | none => [o1 none, o1 none])
      ++ [u1 (match x.last with | none => 0 | some true => 1 | some false => 2)])

/-- R173: the result of an evaluation. -/
def watchResult (s : State) : WatchKind → Bool
  | .meter src low high => (match s.le.meters.read .off src with
    | .off => false
    | .step m => decide (low ≤ m) && decide (m ≤ high))
  | .contacts mask pattern => (List.range 16).all (fun i => !mask.getLsbD i || (inputOf s i).settled == pattern.getLsbD i)

/-- R173 step 2: the mode asks for an event. -/
def watchEmits (x : Watch) (r : Bool) : Bool :=
  match x.mode with
  | .off => false
  | .change => x.last != some r
  | _ => true

/-- R173 steps 3 and 4. -/
def watchAfter (r : Bool) (x : Watch) : Watch := { x with last := some r, mode := if x.mode = .once then .off else x.mode }

/-- R173: a delivery to a watch's trigger. -/
def evaluateWatch (w : Nat) (s : State) : State :=
  let x := watchOf s w
  if x.mode = .off then s
  else
    let r := watchResult s x.kind
    let s := match x.pair with
      | some (a, b) => writePair a b r s
      | none => s
    let s := if watchEmits x r then emit ((if r then 97 else 96) + 2 * w) s else s
    updWatch w (watchAfter r) s

/-! ## The commands -/

/-- SET_LINK (R166) -/
def runSetLink (h : Hdr) (slot eventId : Nat) : State → State := answerWith h false (doSetLink slot eventId)
/-- READ_LINKS (R166) -/
def runReadLinks (h : Hdr) : State → State := answerWith h true (reading linksAnswer)
/-- RAISE_EVENT (R167) -/
def runRaiseEvent (h : Hdr) (host : Nat) : State → State := answerWith h true (doRaiseEvent h host)
/-- SET_CONTACT_INPUT (R170) -/
def runSetContactInput (h : Hdr) (c : InputArgs) : State → State := answerWith h false (doSetContactInput c)
/-- READ_CONTACTS (R170) -/
def runReadContacts (h : Hdr) : State → State := answerWith h true (reading contactsAnswer)
/-- SET_CONTACT_OUTPUTS (R171) -/
def runSetContactOutputs (h : Hdr) (mask levels : BitVec 16) : State → State := answerWith h false (doSetContactOutputs mask levels)
/-- SET_OUTPUT_OWNER (R171) -/
def runSetOutputOwner (h : Hdr) (mask : BitVec 16) (owner : Nat) : State → State := answerWith h false (doSetOutputOwner mask owner)
/-- SET_OUTPUT_FUNCTION (R172) -/
def runSetOutputFunction (h : Hdr) (fn : Nat) (trigger : Option Nat) (setMask clearMask : Option (BitVec 16)) : State → State :=
  answerWith h false (doSetOutputFunction fn trigger setMask clearMask)
/-- SET_WATCH (R174) -/
def runSetWatch (h : Hdr) (w : WatchArgs) : State → State := answerWith h false (doSetWatch w)
/-- READ_WATCH (R174) -/
def runReadWatch (h : Hdr) (watch : Nat) : State → State := answerWith h true (reading (watchAnswer watch))
/-- OUTPUT_FUNCTION (R172); there are eight functions. -/
def execOutputFunction (fn : Nat) (s : State) : Result :=
  if fn < 8 then .next (deliver (.fn fn) (fun _ s => driveFn (fnOf s fn).setMask (fnOf s fn).clearMask s) s) else .fault .noSuchUnit
/-- WATCH_EVALUATION (R173); there are sixteen watches. -/
def execWatchEvaluation (watch : Nat) (s : State) : Result :=
  if watch < 16 then .next (deliver (.watch watch) (fun _ => evaluateWatch watch) s) else .fault .noSuchUnit

end Sys2Proof.Machine
end

