-- ==== Sys2Proof/Machine/PanelOps.lean ====
section
/-! DEFINITION. The panel link and the foldback manager's part of it: poll slots (R137), answers (R138, R144), the six panel requests
(R139 to R142) and loss (R143). -/

namespace Sys2Proof.Machine

/-! ## Entries of a mix -/

/-- The handles of a mix's entries, rising (section 7.1). -/
def entryHandles (s : State) (mix : Nat) : List Nat := s.rt.routes.keys (fun r => r.owner = .foldback && r.dst == 24 + mix)

/-- The entries of a mix with their handles, by rising source. -/
def entriesBySource (s : State) (mix : Nat) : List (Nat × Route) :=
  (List.range 101).filterMap (fun src => match findKey s src (24 + mix) with
    | none => none
    | some h => (routeAt s h).map (fun r => (h, r)))

/-- The LIVE entry of a source in a mix (R139 step 6). -/
def liveEntry (s : State) (mix src : Nat) : Option (Nat × Route) :=
  match findKey s src (24 + mix) with
  | none => none
  | some h => (match routeAt s h with
    | some r => if r.owner = .foldback ∧ r.state = .live then some (h, r) else none
    | none => none)

/-- A value clamped into a mix's trim window (R140). -/
def windowTrim (m : Mix) (t : Int) : Int := clampInt m.trimMin m.trimMax t

/-- Trim 0 and panel mute off (R141, R143). -/
def recalled (r : Route) : Route := { r with trim := 0, mute := false }

/-- R15: the effective level a read reports: OFF for a record with no last effective level. -/
def readLevel (r : Route) : Level := r.last.getD .off

/-! ## Panel requests -/

/-- What the foldback manager answers a panel (section 7.5). -/
structure PanelEnd where
  code : Code
  adjusted : Bool
  data : List Field

/-- A panel answer with its code alone. -/
def panelCode (c : Code) : PanelEnd := ⟨c, false, []⟩

/-- R139 step 1. -/
def badPanelReq : PanelReq → Bool
  | .ident _ _ => false
  | .nudge mix src step => 31 < mix || !srcOk src || step == 0 || decide (step < -16) || decide (16 < step)
  | .setTrim mix src _ => 31 < mix || !srcOk src
  | .mute mix src _ => 31 < mix || !srcOk src
  | .recall mix => 31 < mix
  | .readMix mix => 31 < mix
  | .other _ => true

/-- R140: the trim of an entry set, clamped into the window. -/
def setEntryTrim (mix : Nat) (h : Nat) (v : Int) (s : State) : State × PanelEnd :=
  let t := windowTrim (mixOf s mix) v
  (updRoute h (fun r => { r with trim := t }) s, ⟨.ok, decide (t ≠ v), [s1 t]⟩)

/-- R141: RECALL. -/
def recallMix (mix : Nat) (s : State) : State × PanelEnd :=
  let hs := (entryHandles s mix).filter (fun h => match routeAt s h with
    | some r => r.state = .live && (mixOf s mix).adjustable.contains r.src
    | none => false)
  let changed := hs.filter (fun h => match routeAt s h with | some r => decide (recalled r ≠ r) | none => false)
  (forEach hs (fun h => updRoute h recalled) s, ⟨.ok, false, [u2 changed.length]⟩)

/-- R142, 12.5: the payload of READ-MIX. -/
def panelMix (s : State) (mix : Nat) : List Field :=
  let m := mixOf s mix
  let live := (entriesBySource s mix).filter (fun p => p.2.owner = .foldback && p.2.state = .live)
  let shown := live.filter (fun p => m.adjustable.contains p.2.src)
  [s2 m.ceiling, s1 m.trimMin, s1 m.trimMax, u1 shown.length]
    ++ shown.flatMap (fun p => [u1 p.2.src, s1 p.2.trim, flag p.2.mute, lev (readLevel p.2)])
    ++ [u1 (live.length - shown.length)]

/-- R139 steps 4 to 6 and the request's own rule, for a panel bound to `own`. -/
def boundRequest (addr own : Nat) (q : PanelReq) (s : State) : State × PanelEnd :=
  let denied := (raise .panelDenied (.num addr) s, panelCode .denied)
  let onEntry (mix src : Nat) (act : Nat → State → State × PanelEnd) : State × PanelEnd :=
    if mix ≠ own ∨ (mixOf s mix).adjustable.contains src = false then denied
    else match liveEntry s mix src with
      | none => (s, panelCode .noentry)
      | some (h, _) => act h s
  match q with
  | .nudge mix src step => onEntry mix src (fun h s => setEntryTrim mix h (((routeAt s h).map (·.trim)).getD 0 + step) s)
  | .setTrim mix src v => onEntry mix src (fun h s => setEntryTrim mix h v s)
  | .mute mix src on => onEntry mix src (fun h s => (updRoute h (fun r => { r with mute := on }) s, panelCode .ok))
  | .recall mix => if mix ≠ own then denied else recallMix mix s
  | .readMix mix => if mix ≠ own then denied else (s, ⟨.ok, false, panelMix s mix⟩)
  | .ident _ _ => (s, panelCode .ok)
  | .other _ => (s, panelCode .invalid)

/-- R139: a new request of the panel at `addr`. -/
def panelTake (addr : Nat) (q : PanelReq) (s : State) : State × PanelEnd :=
  if badPanelReq q then (s, panelCode .invalid) else
  match q, (panelOf s addr).mix with
  | .ident unit rev, mix => (updPanel addr (fun p => { p with identity := some (unit, rev) }) s, ⟨.ok, false, [o1 mix]⟩)
  | _, none => (s, panelCode .denied)
  | q, some own => boundRequest addr own q s

/-! ## Answers, loss and polls -/

/-- R138, R144: an answer taken brings the panel to PRESENT; a LOST one raises PANEL-BACK. -/
def panelPresent (addr : Nat) (s : State) : State :=
  let lost := (panelOf s addr).presence = .lost
  let s := updPanel addr (fun p => { p with presence := .present, misses := 0 }) s
  if lost then raise .panelBack (.num addr) s else s

/-- R138: a request in an answer: a repeat acts nothing; a new one is taken, and its reply and sequence become the last. -/
def panelSequence (addr : Nat) (r : Nat × PanelReq) (s : State) : State :=
  if (panelOf s addr).lastSeq = some r.1 then s
  else
    let e := (panelTake addr r.2 s).2
    updPanel addr (fun p => { p with lastSeq := some r.1, lastReply := some ⟨r.1, e.code, e.adjusted, e.data⟩ }) (panelTake addr r.2 s).1

/-- R138: an answer of the panel polled in this slot; any other changes nothing (R198, log 5). -/
def takeAnswer (addr : Nat) (r : Option (Nat × PanelReq)) (s : State) : State :=
  if s.fb.polling = some addr then
    let s := panelPresent addr { s with fb := { s.fb with polling := none } }
    match r with
    | none => s
    | some q => panelSequence addr q s
  else s

/-- R143: the panel becomes LOST, and the loss policy of its mix is applied. -/
def losePanel (addr : Nat) (s : State) : State :=
  let s := s |> updPanel addr (fun p => { p with presence := .lost, misses := 8 }) |> raise .panelLost (.num addr)
  match (panelOf s addr).mix with
  | none => s
  | some m => if (mixOf s m).lossRecall then forEach (entryHandles s m) (fun h => updRoute h recalled) s else s

/-- R138, R143: the slot of a poll ends with no answer taken. -/
def missPoll (addr : Nat) (s : State) : State :=
  if s.fb.polling = some addr then
    let s := { s with fb := { s.fb with polling := none } }
    let p := panelOf s addr
    if p.enrolled ∧ p.presence = .present then
      if 8 ≤ p.misses + 1 then losePanel addr s else updPanel addr (fun p => { p with misses := p.misses + 1 }) s
    else s
  else s

/-- R143: the eighth unanswered poll in a row of a PRESENT panel. -/
def eighthMiss (addr : Nat) (s : State) : State :=
  let p := panelOf s addr
  if p.enrolled ∧ p.presence = .present ∧ p.misses = 7 then missPoll addr s else s

/-- R137: the next enrolled address above the one last polled, wrapping from the highest to the lowest. -/
def nextPolled (s : State) : Option Nat :=
  let on := (List.range 33).filter (fun a => (panelOf s a).enrolled)
  match on.find? (fun a => s.fb.lastPolled < a) with
  | some a => some a
  | none => on.head?

/-- The result byte of a panel reply (TABLE 12-5). -/
def panelResult : Code → Nat
  | .ok => 0
  | .denied => 1
  | .noentry => 2
  | _ => 3

/-- TABLE 12-5: the bytes of a poll between its address and its CRC. -/
def pollBody (p : Panel) : List Byte :=
  match p.lastReply with
  | none => [0]
  | some r =>
    let body := encodeFields r.data
    [1] ++ bytesOf 1 r.seq ++ bytesOf 1 (panelResult r.code) ++ bytesOf 1 r.adjusted.toNat ++ bytesOf 2 body.length ++ body

/-- 12.5: a panel frame: address, body, CRC. -/
def panelBytes (addr : Nat) (body : List Byte) : List Byte :=
  let l := BitVec.ofNat 8 addr :: body
  l ++ bytesOf 2 (crc16 l).toNat

/-- R137, R138: one poll slot; with no address enrolled no poll is sent and the last polled stays (R145). -/
def pollNext (s : State) : State :=
  match nextPolled s with
  | none => { s with fb := { s.fb with polling := none } }
  | some a => { s with fb := { s.fb with lastPolled := a, polling := some a, frame := panelBytes a (pollBody (panelOf s a)) } }

end Sys2Proof.Machine
end

