-- ==== Sys2Proof/Machine/RouteRequests.lean ====
section
/-! DEFINITION. The host's route and retirement requests (R12 to R17, R53, R58, R59, R61) and their commands. Reply layouts: log 19. -/

namespace Sys2Proof.Machine

/-! ## Finding a route -/

/-- R3, R13, R17: the handle a request's route names, or the code it is refused with. -/
def resolveRef (s : State) : RouteRef → Except Code Nat
  | .key src dst =>
    if !srcOk src || !dstOk dst then .error .invalid
    else (match findKey s src dst with | some h => .ok h | none => .error .notfound)
  | .handle h gen =>
    if 1023 < h then .error .invalid
    else if gen ≠ genOf s h then .error .stale
    else if (routeAt s h).isNone then .error .notfound
    else .ok h

/-- Owners whose records the desk may not change (R7). -/
def notDesks (o : Owner) : Bool := o = .foldback || o = .relay || o = .showstop

/-- A status set number that does not exist, where one is given. -/
def badSet : Option Nat → Bool
  | none => false
  | some n => 3 < n

/-- A route request's reply: handle and generation (R2, R12). -/
def routeReply (s : State) (h : Nat) (adj : Bool) : Answer := okAdj adj [u2 h, u2 (genOf s h)]

/-! ## PostRoute and AmendRoute -/

/-- R13 steps 1 to 5. -/
def amendRecord (h : Nat) (level : Option Level) (fade : Option FadeArg) (set : Option Nat) (prot : Option Bool) (s : State) : State :=
  match routeAt s h with
  | none => s
  | some r =>
    let s := reclaim h s
    let s := if ownedByCue r.owner then adopt h .desk s else s
    let s := match level with
      | some l => setBase h (clampLevel l) (fade.map fadeArg) .desk none s
      | none => s
    giveSetProt h set prot s

/-- TABLE 1-6, the column of an absent key, steps 2 to 7. -/
def postAbsent (q : PostArgs) (s : State) : State × Answer :=
  if !generalDst q.dst then (s, refuse .owned)
  else if q.src = s.ss.stopSource then (s, refuse .reserved)
  else if isVoice q.src ∧ (voiceOf s (q.src - 64)).state = .free then (s, refuse .invalid)
  else match capacityRefusal s q.src q.dst with
    | some (c, k, subj) => (raise k subj s, refuse c)
    | none =>
      let (s, h) := createRoute ⟨q.src, q.dst, .desk, clampLevel q.level, q.fade.map fadeArg, .desk, none, q.set.getD 0, q.prot.getD false⟩ s
      (s, routeReply s h (adjustedLevel (some q.level) q.fade))

/-- TABLE 1-6, the column of a present key, steps 2 to 7. -/
def postPresent (q : PostArgs) (h : Nat) (r : Route) (s : State) : State × Answer :=
  if notDesks r.owner then (s, refuse .owned)
  else if ownedByCue r.owner && !q.adopt then (s, refuse .exists)
  else if r.prot && guarded s then (s, refuse .locked)
  else
    let s := amendRecord h (some q.level) q.fade q.set q.prot s
    (s, routeReply s h (adjustedLevel (some q.level) q.fade))

/-- R12: PostRoute. -/
def doPostRoute (q : PostArgs) (s : State) : State × Answer :=
  if !srcOk q.src || !dstOk q.dst || (q.src == pgmt && q.dst == pgm) || badSet q.set || badFade q.fade then (s, refuse .invalid)
  else match findKey s q.src q.dst with
    | none => postAbsent q s
    | some h => (match routeAt s h with
      | none => postAbsent q s
      | some r => postPresent q h r s)

/-- R13: AmendRoute. -/
def doAmendRoute (q : AmendArgs) (s : State) : State × Answer :=
  match resolveRef s q.route with
  | .error c => (s, refuse c)
  | .ok h => (match routeAt s h with
    | none => (s, refuse .notfound)
    | some r =>
      if badSet q.set || badFade q.fade then (s, refuse .invalid)
      else if notDesks r.owner || (ownedByCue r.owner && !q.adopt) then (s, refuse .owned)
      else if r.prot && guarded s then (s, refuse .locked)
      else
        let s := amendRecord h q.level q.fade q.set q.prot s
        (s, routeReply s h (adjustedLevel q.level q.fade)))

/-! ## Reads -/

/-- The code of a record's state (TABLE 1-2). -/
def routeStateCode : RouteState → Nat
  | .live => 1
  | .retiring => 2

/-- The present bits of a record as read (TABLE 12-3, offset 8). -/
def presentBits (r : Route) : Nat :=
  r.fade.isSome.toNat + 2 * r.duckFade.isSome.toNat + 4 * r.batch.isSome.toNat + 8 * r.last.isSome.toNat
    + 16 * ((r.fade.bind (·.startedBy)).isSome).toNat + 32 * r.mute.toNat + 64 * r.prot.toNat

/-- Started-by as read: list 1, take number 4; 0 where absent. -/
def startedFields (b : Option StartedBy) : List Field :=
  match b with
  | none => [u1 0, u4 0]
  | some b => [u1 b.list, u4 b.take]

/-- The base fade as read (TABLE 12-3, offsets 23 to 41); 0 where absent. -/
def fadeFields (f : Option BaseFade) : List Field :=
  match f with
  | none => [u1 0, u2 0, u2 0, u4 0, u4 0, u1 0] ++ startedFields none
  | some f => [u1 (curveCode f.curve), lev f.a, lev f.b, u4 f.dur, u4 f.n, u1 (originCode f.origin)] ++ startedFields f.startedBy

/-- The duck fade as read (TABLE 12-3, offset 42); 0 where absent. -/
def duckFields (f : Option DuckFade) : List Field :=
  match f with
  | none => [u2 0, u2 0, u4 0, u4 0]
  | some f => [s2 f.a, s2 f.b, u4 f.dur, u4 f.n]

/-- TABLE 12-3: the route record as read. -/
def routeRecord (s : State) (h : Nat) (r : Route) : List Field :=
  [u2 h, u2 (genOf s h), u1 (routeStateCode r.state), u1 r.src, u1 r.dst, u1 (ownerCode r.owner), u1 (presentBits r), u1 r.set, lev r.base,
    s1 r.trim, u1 (r.batch.getD 0), s2 r.duck, (match r.last with | some l => lev l | none => u2 0), lev (readLevel r),
    u3 (gainCode (readLevel r))] ++ fadeFields r.fade ++ duckFields r.duckFade

/-- R15, 12.2: a FREE slot as read. -/
def freeRecord (s : State) (h : Nat) : List Field := [u2 h, u2 (genOf s h), u1 0] ++ List.replicate 49 (u1 0)

/-- R15: the answer for a slot. -/
def slotAnswer (s : State) (h : Nat) : Answer :=
  match routeAt s h with
  | none => { refuse .notfound with data := freeRecord s h }
  | some r => okWith (routeRecord s h r)

/-- R15: LookupRoute. -/
def lookupAnswer (src dst : Nat) (s : State) : Answer :=
  match resolveRef s (.key src dst) with
  | .error c => refuse c
  | .ok h => slotAnswer s h

/-- R15: ReadRoute. -/
def readRouteAnswer (h : Nat) (s : State) : Answer := if 1023 < h then refuse .invalid else slotAnswer s h

/-- R16: ListRoutes. -/
def listAnswer (dst : Nat) (start : Option Nat) (s : State) : Answer :=
  if !dstOk dst || 1023 < start.getD 0 then refuse .invalid
  else
    let all := s.rt.routes.keys (fun r => r.dst == dst)
    let rest := all.filter (fun h => start.getD 0 ≤ h)
    { okWith ([u2 all.length, u1 (rest.take 64).length] ++ (rest.take 64).map u2) with more := decide (64 < rest.length) }

/-! ## Retirement requests -/

/-- A host retirement (R50, R52): class OTHER, origin DESK. -/
def hostRetirement (dur curve : Option Nat) : Retirement :=
  ⟨min (dur.getD 0) maxFade, ((curve.bind curveOf)).getD .linear, .other, .desk, none⟩

/-- An unknown curve, where one is given. -/
def badCurve : Option Nat → Bool
  | none => false
  | some c => (curveOf c).isNone

/-- A duration above its range, where one is given. -/
def longFade : Option Nat → Bool
  | none => false
  | some d => maxFade < d

/-- R58: the reply of a retirement: handle, generation, and the batch or the individual mark, beside which the batch byte is
sent as 0xFF (log 19). -/
def retireReply (s : State) (h : Nat) (adj : Bool) (batch : Option Nat) : Answer :=
  { okAdj adj [u2 h, u2 (genOf s h), o1 batch] with individual := batch.isNone }

/-- R58: RetireRoute; an unknown curve is refused after the route is found (log 30). -/
def doRetireRoute (ref : RouteRef) (dur curve : Option Nat) (s : State) : State × Answer :=
  match resolveRef s ref with
  | .error c => (s, refuse c)
  | .ok h => (match routeAt s h with
    | none => (s, refuse .notfound)
    | some r =>
      if badCurve curve then (s, refuse .invalid)
      else if notDesks r.owner then (s, refuse .owned)
      else if r.prot && guarded s then (s, refuse .locked)
      else if r.state = .retiring then (s, retireReply s h (longFade dur) r.batch)
      else
        let (s, b) := retireRoute h (hostRetirement dur curve) s
        (s, retireReply s h (longFade dur) b))

/-- R59: the records of a group, with their handles. -/
def groupOf (s : State) (o : Owner) (dst : Option Nat) : List (Nat × Route) :=
  s.rt.routes.filter (fun p => p.2.owner = o && (match dst with | none => true | some d => p.2.dst == d))

/-- R59: one LIVE record of the group; counts records batched and degraded. -/
def retireOne (q : Retirement) (acc : State × Nat × Nat) (h : Nat) : State × Nat × Nat :=
  match retireRoute h q acc.1 with
  | (s, some _) => (s, acc.2.1 + 1, acc.2.2)
  | (s, none) => (s, acc.2.1, acc.2.2 + 1)

/-- R59: RetireGroup. -/
def doRetireGroup (owner : Nat) (dst dur curve : Option Nat) (s : State) : State × Answer :=
  match ownerOf owner with
  | none => (s, refuse .invalid)
  | some o =>
    if notDesks o then (s, refuse .owned)
    else if (match dst with | some d => !dstOk d | none => false) || badCurve curve then (s, refuse .invalid)
    else
      let group := groupOf s o dst
      let live := group.filter (fun p => p.2.state = .live)
      if guarded s && live.any (fun p => p.2.prot) then (s, refuse .locked)
      else
        let (s, batched, degraded) := (live.map (·.1)).foldl (retireOne (hostRetirement dur curve)) (s, 0, 0)
        (s, okAdj (longFade dur) [u2 batched, u2 degraded, u2 (group.length - live.length)])

/-- R53: SetRetireWindow. -/
def doSetRetireWindow (window : Nat) (s : State) : State × Answer :=
  ({ s with ru := { s.ru with window := min window 200 } }, okAdj (decide (200 < window)) [])

/-- The code of a batch's state (TABLE 3-2). -/
def batchStateCode (b : Batch) : Nat := if b.suspended then 3 else match b.phase with | .gathering => 1 | .fading => 2

/-- A member as read: its handle and its started-by, with a present byte. -/
def memberFields (m : Member) : List Field := [u2 m.handle, flag m.startedBy.isSome] ++ startedFields m.startedBy

/-- R61: a batch's counts as its state has them: the window count of a GATHERING one, n of N of a FADING one, the state before suspension and
the frozen count of a SUSPENDED one. -/
def batchCounts (b : Batch) : List Field :=
  match b.suspended, b.phase with
  | false, .gathering => [u4 b.count]
  | false, .fading => [u4 b.n, u4 b.dur]
  | true, .gathering => [u1 1, u4 b.count]
  | true, .fading => [u1 2, u4 b.n]

/-- R61: ReadBatch; a FREE batch answers its state alone. The member count stands before the members in its two bytes, with no count byte, which
could not hold 256 (log 19). -/
def batchAnswer (id : Nat) (s : State) : Answer :=
  if 7 < id then refuse .invalid
  else match s.ru.batches.find id with
    | none => okWith [u1 0]
    | some b => okWith ([u4 s.ru.window, u1 (batchStateCode b), u4 b.dur, u1 (curveCode b.curve), u1 (match b.cls with | .cue => 0 | .other => 1),
        u2 b.members.length] ++ b.members.flatMap memberFields ++ [u4 b.window] ++ batchCounts b)

/-! ## The commands -/

/-- POST_ROUTE (R12) -/
def runPostRoute (h : Hdr) (r : PostArgs) : State → State := answerWith h false (doPostRoute r)
/-- AMEND_ROUTE (R13) -/
def runAmendRoute (h : Hdr) (r : AmendArgs) : State → State := answerWith h false (doAmendRoute r)
/-- LOOKUP_ROUTE (R15) -/
def runLookupRoute (h : Hdr) (src dst : Nat) : State → State := answerWith h true (reading (lookupAnswer src dst))
/-- READ_ROUTE (R15) -/
def runReadRoute (h : Hdr) (handle : Nat) : State → State := answerWith h true (reading (readRouteAnswer handle))
/-- LIST_ROUTES (R16) -/
def runListRoutes (h : Hdr) (dst : Nat) (start : Option Nat) : State → State := answerWith h true (reading (listAnswer dst start))
/-- RETIRE_ROUTE (R58) -/
def runRetireRoute (h : Hdr) (route : RouteRef) (dur curve : Option Nat) : State → State :=
  answerWith h false (doRetireRoute route dur curve)
/-- RETIRE_GROUP (R59) -/
def runRetireGroup (h : Hdr) (owner : Nat) (dst dur curve : Option Nat) : State → State :=
  answerWith h false (doRetireGroup owner dst dur curve)
/-- SET_RETIRE_WINDOW (R53) -/
def runSetRetireWindow (h : Hdr) (window : Nat) : State → State := answerWith h false (doSetRetireWindow window)
/-- READ_BATCH (R61) -/
def runReadBatch (h : Hdr) (id : Nat) : State → State := answerWith h true (reading (batchAnswer id))

end Sys2Proof.Machine
end

