-- ==== Sys2Proof/Machine/FoldbackRequests.lean ====
section
/-! DEFINITION. The foldback manager's requests (R130 to R136), the panel link's commands (R137 to R144), and the six panel requests. -/

namespace Sys2Proof.Machine

/-! ## Mixes -/

/-- The mix record as read (TABLE 7-1): master, status set, ceiling, window, adjustable sources after their count, policy, feed, panel. -/
def mixItems (s : State) (m : Nat) : List Field :=
  let x := mixOf s m
  [u1 m, lev (masterOf s (24 + m)), u1 (dstSet s (24 + m)), s2 x.ceiling, s2 x.trimMin, s2 x.trimMax, u1 x.adjustable.length]
    ++ x.adjustable.map u1 ++ [flag x.lossRecall, flag x.stopFeed, o1 (panelOfMix s m)]

/-- Check 1 of R130. -/
def badMix (q : MixArgs) : Bool :=
  31 < q.mix || (match q.loss with | some n => 1 < n | none => false) || (match q.adjustable with | some l => l.any (fun x => !srcOk x) | none => false)

/-- The adjustable set a list of sources names, rising. -/
def sourceSet (l : List Nat) : List Nat := (List.range 101).filter (fun x => l.contains x)

/-- R130: the mix with the given items, clamped. -/
def mixWith (q : MixArgs) (x : Mix) : Mix :=
  { x with
    ceiling := (q.ceiling.map (clampInt (-1024) 192)).getD x.ceiling
    trimMin := (q.trimMin.map (clampInt (-128) 0)).getD x.trimMin
    trimMax := (q.trimMax.map (clampInt 0 64)).getD x.trimMax
    adjustable := (q.adjustable.map sourceSet).getD x.adjustable
    lossRecall := (q.loss.map (· == 1)).getD x.lossRecall
    stopFeed := q.stopFeed.getD x.stopFeed }

/-- Check 3 of R130: the request raises the ceiling, changes an end of the window, or changes the adjustable set. -/
def guardedChange (q : MixArgs) (x : Mix) : Bool :=
  let y := mixWith q x
  decide (x.ceiling < y.ceiling) || y.trimMin != x.trimMin || y.trimMax != x.trimMax || y.adjustable != x.adjustable

/-- R130: some value lies outside its range. -/
def mixAdjusted (q : MixArgs) : Bool :=
  (match q.ceiling with | some v => decide (clampInt (-1024) 192 v ≠ v) | none => false)
  || (match q.trimMin with | some v => decide (clampInt (-128) 0 v ≠ v) | none => false)
  || (match q.trimMax with | some v => decide (clampInt 0 64 v ≠ v) | none => false)

/-- R132: the entries whose trim the mix's window no longer holds. -/
def outsideWindow (s : State) (m : Nat) : List Nat :=
  (entryHandles s m).filter (fun h => match routeAt s h with | some r => decide (windowTrim (mixOf s m) r.trim ≠ r.trim) | none => false)

/-- R130, R132: SetMixConfig. -/
def doSetMixConfig (q : MixArgs) (s : State) : State × Answer :=
  if badMix q then (s, refuse .invalid)
  else if s.ss.stopped && q.stopFeed.isSome then (s, refuse .held)
  else if guarded s && guardedChange q (mixOf s q.mix) then (s, refuse .locked)
  else
    let s := updMix q.mix (mixWith q) s
    let out := outsideWindow s q.mix
    let s := forEach out (fun h => updRoute h (fun r => { r with trim := windowTrim (mixOf s q.mix) r.trim })) s
    (s, okAdj (mixAdjusted q) (mixItems s q.mix ++ [u2 out.length]))

/-! ## Bases -/

/-- Check 1 of R133. -/
def badBase (q : FbArgs) : Bool := 31 < q.mix || !srcOk q.src || badFade q.fade

/-- R133: the reply: handle, generation, trim, panel mute. -/
def baseReply (s : State) (h : Nat) (adj : Bool) : Answer :=
  match routeAt s h with
  | none => okAdj adj [u2 h, u2 (genOf s h), s1 0, u1 0]
  | some r => okAdj adj [u2 h, u2 (genOf s h), s1 r.trim, flag r.mute]

/-- R129, R133: an absent entry is created. -/
def createEntry (q : FbArgs) (s : State) : State × Answer :=
  if isVoice q.src ∧ (voiceOf s (q.src - 64)).state = .free then (s, refuse .invalid)
  else match capacityRefusal s q.src (24 + q.mix) with
    | some (c, k, subj) => (raise k subj s, refuse c)
    | none =>
      let (s, h) := createRoute ⟨q.src, 24 + q.mix, .foldback, clampLevel q.level, q.fade.map fadeArg, .foldback, none,
        dstSet s (24 + q.mix), q.prot.getD false⟩ s
      (s, baseReply s h (adjustedLevel (some q.level) q.fade))

/-- R133: a present entry: reclaimed, its base set, its trim reset and its protected flag replaced where given. -/
def changeEntry (q : FbArgs) (h : Nat) (s : State) : State :=
  s |> reclaim h
    |> setBase h (clampLevel q.level) (q.fade.map fadeArg) .foldback none
    |> updRoute h (fun r => { r with trim := if q.resetTrim then 0 else r.trim, prot := q.prot.getD r.prot })

/-- The entry of a source, LIVE or RETIRING (section 7.1). -/
def mixEntry (s : State) (mix src : Nat) : Option (Nat × Route) :=
  match findKey s src (24 + mix) with
  | none => none
  | some h => (match routeAt s h with
    | some r => if r.owner = .foldback then some (h, r) else none
    | none => none)

/-- R133: SetFoldbackBase. -/
def doSetFoldbackBase (q : FbArgs) (s : State) : State × Answer :=
  if badBase q then (s, refuse .invalid)
  else if q.src = s.ss.stopSource then (s, refuse .reserved)
  else match mixEntry s q.mix q.src with
    | none => createEntry q s
    | some (h, r) =>
      if r.prot && guarded s then (s, refuse .locked)
      else
        let s := changeEntry q h s
        (s, baseReply s h (adjustedLevel (some q.level) q.fade))

/-- R134: the retirement of a removing request: its fade, 0 ms LINEAR where none is given (log 20). -/
def removeRetirement (q : FbArgs) : Retirement :=
  let f := (q.fade.map fadeArg).getD (0, .linear)
  ⟨f.1, f.2, .other, .foldback, none⟩

/-- R134: SetFoldbackBase with *remove*. -/
def doRemoveEntry (q : FbArgs) (s : State) : State × Answer :=
  if badBase q then (s, refuse .invalid)
  else match mixEntry s q.mix q.src with
    | none => (s, refuse .notfound)
    | some (h, r) =>
      if r.prot && guarded s then (s, refuse .locked)
      else if r.state = .retiring then (s, retireReply s h (adjustedLevel none q.fade) r.batch)
      else
        let (s, b) := retireRoute h (removeRetirement q) s
        (s, retireReply s h (adjustedLevel none q.fade) b)

/-! ## Reads -/

/-- The code of a presence (TABLE 7-3). -/
def presenceCode : Presence → Nat
  | .silent => 0
  | .present => 1
  | .lost => 2

/-- R135: one route into a mix as ReadMix reports it. -/
def mixRouteItems (s : State) (m : Mix) (p : Nat × Route) : List Field :=
  [u1 p.2.src, u1 (ownerCode p.2.owner), u2 p.1, u2 (genOf s p.1), u1 (routeStateCode p.2.state), lev p.2.base, s1 p.2.trim, flag p.2.mute,
    flag (m.adjustable.contains p.2.src), lev (readLevel p.2)]

/-- R135: ReadMix. -/
def readMixAnswer (m : Nat) (s : State) : Answer :=
  if 31 < m then refuse .invalid
  else
    let rs := entriesBySource s m
    okWith (mixItems s m ++ [o1 ((panelOfMix s m).map (fun a => presenceCode (panelOf s a).presence)), u1 rs.length]
      ++ rs.flatMap (mixRouteItems s (mixOf s m)))

/-- An enrolment entry as read (TABLE 7-2). -/
def panelItems (s : State) (a : Nat) : List Field :=
  let p := panelOf s a
  [u1 a, flag p.enrolled, o1 p.mix, u1 (presenceCode p.presence), u2 p.misses, flag p.identity.isSome, u4 (p.identity.getD (0, 0)).1,
    u1 (p.identity.getD (0, 0)).2, flag p.lastSeq.isSome, u1 (p.lastSeq.getD 0)]
    ++ (match p.lastReply with
      | none => [u1 0]
      | some r =>
        let body := encodeFields r.data
        [u1 1, u1 r.seq, u1 (panelResult r.code), u1 r.adjusted.toNat, u2 body.length] ++ r.data)

/-! ## Enrolment -/

/-- R136: an entry newly enrolled, or kept, with its new binding. -/
def enrolledPanel (mix : Option Nat) (p : Panel) : Panel :=
  if p.enrolled then { p with mix := mix } else { Panel.init with enrolled := true, mix := mix }

/-- R136: a mix bound to a different address. -/
def mixTaken (s : State) (addr : Nat) (mix : Option Nat) : Bool :=
  match mix with
  | none => false
  | some m => (match panelOfMix s m with | some a => a != addr | none => false)

/-- R136: an address or mix that does not exist. -/
def badEnrol (addr : Nat) (mix : Option Nat) : Bool :=
  addr < 1 || 32 < addr || (match mix with | some m => decide (31 < m) | none => false)

/-- R136: EnrolPanel; INVALID before BUSY (log 30). -/
def doEnrolPanel (addr : Nat) (mix : Option Nat) (s : State) : State × Answer :=
  if badEnrol addr mix then (s, refuse .invalid)
  else if mixTaken s addr mix then (s, refuse .busy)
  else
    let s := updPanel addr (enrolledPanel mix) s
    (s, okWith (panelItems s addr))

/-- R136, R137: WithdrawPanel; the answer to a poll in progress is discarded. The whole entry returns to its values after cold reset (log 44); an
address outside 1–32 is not enrolled (log 30). -/
def doWithdrawPanel (addr : Nat) (s : State) : State × Answer :=
  if addr < 1 ∨ 32 < addr ∨ (panelOf s addr).enrolled = false then (s, refuse .notfound)
  else
    (updPanel addr (fun _ => Panel.init)
      { s with fb := { s.fb with polling := if s.fb.polling = some addr then none else s.fb.polling } }, okWith [])

/-- R136: ReadPanels. -/
def panelsAnswer (s : State) : Answer := okWith ([u1 32] ++ (List.range 32).flatMap (fun i => panelItems s (i + 1)))

/-! ## The commands -/

/-- SET_MIX_CONFIG (R130) -/
def runSetMixConfig (h : Hdr) (m : MixArgs) : State → State := answerWith h false (doSetMixConfig m)
/-- SET_FOLDBACK_BASE (R133) -/
def runSetFoldbackBase (h : Hdr) (f : FbArgs) : State → State := answerWith h false (doSetFoldbackBase f)
/-- SET_FOLDBACK_BASE_REMOVE (R134) -/
def runSetFoldbackBaseRemove (h : Hdr) (f : FbArgs) : State → State := answerWith h false (doRemoveEntry f)
/-- READ_MIX (R135) -/
def runReadMix (h : Hdr) (mix : Nat) : State → State := answerWith h true (reading (readMixAnswer mix))
/-- ENROL_PANEL (R136) -/
def runEnrolPanel (h : Hdr) (addr : Nat) (mix : Option Nat) : State → State := answerWith h false (doEnrolPanel addr mix)
/-- WITHDRAW_PANEL (R136) -/
def runWithdrawPanel (h : Hdr) (addr : Nat) : State → State := answerWith h false (doWithdrawPanel addr)
/-- READ_PANELS (R136) -/
def runReadPanels (h : Hdr) : State → State := answerWith h true (reading panelsAnswer)
/-- POLL_SLOT (R137) -/
def execPollSlot (s : State) : Result := .next (pollNext s)
/-- POLL_UNANSWERED (R138) -/
def execPollUnanswered (addr : Nat) (s : State) : Result := .next (missPoll addr s)
/-- PANEL_LOST (R143) -/
def execPanelLost (addr : Nat) (s : State) : Result := .next (eighthMiss addr s)
/-- PANEL_ANSWER (R138, R198): an answer that is not well-formed is not taken; its slot ends by POLL_UNANSWERED. -/
def execPanelAnswer (bytes : List Byte) (s : State) : Result :=
  .next (match panelFrame bytes with
    | none => s
    | some (addr, r) => takeAnswer addr r s)
/-- IDENT (R142) -/
def execIdent (addr seq unit rev : Nat) (s : State) : Result := .next (takeAnswer addr (some (seq, .ident unit rev)) s)
/-- NUDGE (R140) -/
def execNudge (addr seq mix src : Nat) (step : Int) (s : State) : Result := .next (takeAnswer addr (some (seq, .nudge mix src step)) s)
/-- SET_TRIM (R140) -/
def execSetTrim (addr seq mix src : Nat) (trim : Int) (s : State) : Result := .next (takeAnswer addr (some (seq, .setTrim mix src trim)) s)
/-- MUTE (R141) -/
def execMute (addr seq mix src : Nat) (on : Bool) (s : State) : Result := .next (takeAnswer addr (some (seq, .mute mix src on)) s)
/-- RECALL (R141) -/
def execRecall (addr seq mix : Nat) (s : State) : Result := .next (takeAnswer addr (some (seq, .recall mix)) s)
/-- READ_MIX_PANEL (R142) -/
def execReadMixPanel (addr seq mix : Nat) (s : State) : Result := .next (takeAnswer addr (some (seq, .readMix mix)) s)

end Sys2Proof.Machine
end

