-- ==== Sys2Proof/Machine/LevelRequests.lean ====
section
/-! DEFINITION. The level engine's requests (R27, R28, R43, R44, R46) and their commands. -/

namespace Sys2Proof.Machine

/-- R27: a source with a trim of its own. -/
def trimSource (src : Nat) : Bool := srcOk src && !isVoice src

/-- R27: SetSourceTrim. -/
def doSetSourceTrim (src : Nat) (trim : Int) (s : State) : State × Answer :=
  if !trimSource src then (s, refuse .invalid)
  else
    let v := clampInt (-256) 256 trim
    ({ s with le := { s.le with trims := s.le.trims.write 0 src v } }, okAdj (decide (v ≠ trim)) [])

/-- R28, R129: a destination takes a status set; a foldback destination's entries and SHOWSTOP route take it at the same instant. -/
def giveDstSet (dst set : Nat) (s : State) : State :=
  { s with
    le := { s.le with dstSets := s.le.dstSets.write 0 dst set }
    rt := { s.rt with routes := s.rt.routes.mapAll (fun _ r => if isFoldDst dst ∧ r.dst = dst then { r with set := set } else r) } }

/-- R28: SetMaster. -/
def doSetMaster (dst : Nat) (level : Level) (set : Option Nat) (s : State) : State × Answer :=
  if !dstOk dst || (match set with | some n => 3 < n | none => false) then (s, refuse .invalid)
  else if isFoldDst dst && guarded s then (s, refuse .locked)
  else
    let s := { s with le := { s.le with masters := s.le.masters.write (.step 0) dst (clampLevel level) } }
    (match set with | some n => giveDstSet dst n s | none => s, okAdj (adjustedLevel (some level) none) [])

/-- Clamp modes by code (TABLE 2-4). -/
def clampModeOf : Nat → Option ClampMode
  | 0 => some .limit
  | 1 => some .hold
  | _ => none

/-- Rounding controls by code (TABLE 2-4). -/
def roundingOf : Nat → Option Rounding
  | 0 => some .towardStart
  | 1 => some .nearest
  | _ => none

/-- A code is given and unknown. -/
def badCode {α : Type} (f : Nat → Option α) : Option Nat → Bool
  | none => false
  | some c => (f c).isNone

/-- R44: SetStatusControls. -/
def doSetStatusControls (set : Nat) (clamp round : Option Nat) (mask : Option (BitVec 8)) (s : State) : State × Answer :=
  if guarded s then (s, refuse .locked)
  else if 3 < set || badCode clampModeOf clamp || badCode roundingOf round then (s, refuse .invalid)
  else
    (updSet set (fun x => { x with
      mode := (clamp.bind clampModeOf).getD x.mode
      rounding := (round.bind roundingOf).getD x.rounding
      notify := (mask.map flagsOf).getD x.notify }) s, okWith [])

/-- R44: ReadStatus. -/
def statusAnswer (set : Nat) (s : State) : Answer :=
  if 3 < set then refuse .invalid
  else
    let x := setOf s set
    okWith [u1 (match x.mode with | .limit => 0 | .hold => 1), u1 (match x.rounding with | .towardStart => 0 | .nearest => 1),
      u1 (flagsCode x.notify), u1 (flagsCode x.flags)]

/-- R46: ClearStatus. -/
def doClearStatus (set : Nat) (mask : BitVec 8) (s : State) : State × Answer :=
  if 3 < set then (s, refuse .invalid) else (clearFlags set (flagsOf mask) s, okWith [])

/-- The meter of a source (R42). -/
def meterRead (s : State) (src : Nat) : Level := s.le.meters.read .off src

/-- R43: ReadMeters. -/
def metersAnswer (first count : Nat) (s : State) : Answer :=
  if 100 < first || count == 0 || 101 < first + count then refuse .invalid
  else okWith ([u1 count] ++ (List.range count).map (fun i => lev (meterRead s (first + i))) ++ [u2 s.le.window])

/-- The sources with trims, rising (R43). -/
def trimSources : List Nat := (List.range 101).filter trimSource

/-- R43: ReadLevels. -/
def levelsAnswer (s : State) : Answer :=
  okWith ([u1 trimSources.length] ++ trimSources.map (fun src => s2 (s.le.trims.read 0 src))
    ++ [u1 72] ++ (List.range 72).flatMap (fun d => [lev (masterOf s d), u1 (dstSet s d)]))

/-- SET_SOURCE_TRIM (R27) -/
def runSetSourceTrim (h : Hdr) (src : Nat) (trim : Int) : State → State := answerWith h false (doSetSourceTrim src trim)
/-- SET_MASTER (R28) -/
def runSetMaster (h : Hdr) (dst : Nat) (level : Level) (set : Option Nat) : State → State := answerWith h false (doSetMaster dst level set)
/-- SET_STATUS_CONTROLS (R44) -/
def runSetStatusControls (h : Hdr) (set : Nat) (clamp round : Option Nat) (mask : Option (BitVec 8)) : State → State :=
  answerWith h false (doSetStatusControls set clamp round mask)
/-- READ_STATUS (R44) -/
def runReadStatus (h : Hdr) (set : Nat) : State → State := answerWith h true (reading (statusAnswer set))
/-- CLEAR_STATUS (R46) -/
def runClearStatus (h : Hdr) (set : Nat) (mask : BitVec 8) : State → State := answerWith h false (doClearStatus set mask)
/-- READ_METERS (R43) -/
def runReadMeters (h : Hdr) (first count : Nat) : State → State := answerWith h true (reading (metersAnswer first count))
/-- READ_LEVELS (R43) -/
def runReadLevels (h : Hdr) : State → State := answerWith h true (reading levelsAnswer)

end Sys2Proof.Machine
end

