-- ==== Sys2Proof/Machine/Ports.lean ====
section
/-! DEFINITION. Cold reset and start-up (R195) the transaction of an unknown selector (R197) and the request of an unknown kind (R186). -/

namespace Sys2Proof.Machine

/-- An input after cold reset: its line as it stands, settled (TABLE 9-3, R175). -/
def resetInput (c : ContactIn) : ContactIn := { ContactIn.init with raw := c.raw, settled := c.raw }

/-- R195: cold reset: every block at its cold reset values. The contact and key lines stand as they are (R175, R179), the memory's content
is not defined (R128, log 7), and the model's queue of commands is kept. -/
def coldReset (s : State) : State :=
  { State.reset with
    pending := s.pending
    ef := { State.reset.ef with inputs := s.ef.inputs.mapWrite ContactIn.init (fun _ => resetInput) }
    ss := { State.reset.ss with key := s.ss.key }
    smp := { State.reset.smp with memory := ⟨s.smp.memory.epoch + 1, []⟩ } }

/-- R195: the memory is found, its size recorded, and READY becomes 1; once READY is 1 start-up is over (log 5). -/
def startUp (sizeLog : Nat) (s : State) : State :=
  if s.ready then s else { s with ready := true, smp := { s.smp with size := 2 ^ sizeLog } }

/-- COLD_RESET (R195) -/
def execColdReset (s : State) : Result := .next (coldReset s)
/-- START_UP_COMPLETE (R195); training finds a power of two from 2^24 to 2^29 (section 6.1, log 29). -/
def execStartUpComplete (sizeLog : Nat) (s : State) : Result :=
  if 24 ≤ sizeLog ∧ sizeLog ≤ 29 then .next (startUp sizeLog s) else .fault .noSuchMemory
/-- UNKNOWN_SELECTOR (R197) -/
def execUnknownSelector (port : Port) (clocked : Nat) (s : State) : Result := .next (transact port (List.replicate clocked 0) s)
/-- UNKNOWN_REQUEST (R186): answered INVALID on either port. -/
def runUnknownRequest (h : Hdr) : State → State := answerWith h true (reading (fun _ => refuse .invalid))

end Sys2Proof.Machine
end

