-- ==== Sys2Proof/Machine/RelayRequests.lean ====
section
/-! DEFINITION. The relay controller's requests (R147, R148, R150 to R152, R159), the preset links (R160), and their commands. Reply
layouts: 12.4 and log 19. -/

namespace Sys2Proof.Machine

/-! ## Zones -/

/-- The zone record as read (TABLE 8-1). -/
def zoneItems (s : State) (z : Nat) : List Field :=
  let x := zoneOf s z
  [u1 z, flag x.enabled, s2 x.relay, s2 x.call, u4 x.attack, u4 x.release, o1 x.lamp, u1 x.groups.toNat, u1 x.set, o1 x.holder]

/-- Check 1 of R147. -/
def badZone (q : ZoneArgs) : Bool :=
  14 < q.zone || (match q.lamp with | some (some l) => 15 < l | _ => false) || (match q.set with | some n => 3 < n | none => false)
    || badFade q.fade

/-- R147: a request that enables a disabled zone. -/
def enables (s : State) (q : ZoneArgs) : Bool := q.enabled == some true && !(zoneOf s q.zone).enabled
/-- R148: a request that disables an enabled zone. -/
def disables (s : State) (q : ZoneArgs) : Bool := q.enabled == some false && (zoneOf s q.zone).enabled

/-- Levels of zones: -1024..+192. -/
def clampZone (l : Int) : Int := clampInt (-1024) 192 l

/-- R147: some value lies outside its range. -/
def zoneAdjusted (q : ZoneArgs) : Bool :=
  (match q.relay with | some l => decide (clampZone l ≠ l) | none => false)
  || (match q.call with | some l => decide (clampZone l ≠ l) | none => false)
  || (match q.attack with | some n => decide (500 < n) | none => false)
  || (match q.release with | some n => decide (5000 < n) | none => false)
  || (match q.fade with | some f => decide (maxFade < f.dur) | none => false)

/-- R147: the zone record with the given items, clamped. -/
def zoneWith (q : ZoneArgs) (x : Zone) : Zone :=
  { x with
    enabled := q.enabled.getD x.enabled
    relay := (q.relay.map clampZone).getD x.relay
    call := (q.call.map clampZone).getD x.call
    attack := (q.attack.map (min · 500)).getD x.attack
    release := (q.release.map (min · 5000)).getD x.release
    lamp := q.lamp.getD x.lamp
    groups := q.groups.getD x.groups
    set := q.set.getD x.set }

/-- The fade of a relay level, where one is given with it (R147, R148); a fade given without a relay level is checked and clamped, and acts on
nothing (log 37). -/
def relayFade (q : ZoneArgs) : Option (Nat × Curve) := if q.relay.isSome then q.fade.map fadeArg else none

/-- R148: the duck of a programme route made or reclaimed: its holder's depth, 0 with none. -/
def holderDuck (s : State) (z : Nat) : Int :=
  match (zoneOf s z).holder with
  | none => 0
  | some h => (match callOf s h with | some c => c.duck | none => 0)

/-- R148, Enable: the programme route is made, or reclaimed where it is still RETIRING. -/
def enableZone (z : Nat) (fade : Option (Nat × Curve)) (s : State) : State :=
  let x := zoneOf s z
  let setDuck := fun (h : Nat) (s : State) => updRoute h (fun r => { r with duck := holderDuck s z, duckFade := none }) s
  match programmeRoute s z with
  | some h => s |> reclaim h |> setBase h (.step x.relay) fade .relay none |> setDuck h
  | none =>
    let (s, h) := createRoute ⟨pgmt, 56 + z, .relay, .step x.relay, fade, .relay, none, x.set, false⟩ s
    setDuck h s

/-- R148, Disable: the programme route goes to the retirement unit. -/
def disableZone (z : Nat) (s : State) : State :=
  match programmeRoute s z with
  | none => s
  | some h =>
    if (routeAt s h).map (·.state) = some .live then (retireRoute h ⟨(zoneOf s z).release, .linear, .other, .relay, none⟩ s).1 else s

/-- R148, Relay level of a zone that stays enabled. -/
def moveRelay (z : Nat) (fade : Option (Nat × Curve)) (s : State) : State :=
  match programmeRoute s z with
  | none => s
  | some h => setBase h (.step (zoneOf s z).relay) fade .relay none s

/-- R148, Call level: the base of every call route the zone carries. -/
def moveCalls (z : Nat) (s : State) : State :=
  forEach (s.rt.routes.keys (fun r => r.owner = .relay && r.dst == 56 + z && r.src != pgmt))
    (fun h s => setBase h (.step (zoneOf s z).call) none .relay none s) s

/-- R148, Status set: every route into the zone takes it. -/
def moveSet (z : Nat) (s : State) : State :=
  let f := fun (_ : Nat) (r : Route) => if r.dst = 56 + z then { r with set := (zoneOf s z).set } else r
  { s with rt := { s.rt with routes := s.rt.routes.mapAll f } }

/-- R148, Lamp line: the line named before, where no zone names it now, is driven low; the new one follows the holding. -/
def moveLamp (old : Option Nat) (s : State) : State :=
  refreshLamps (match old with
    | some l => if isLamp s l then s else updOutput l (fun o => { o with high := false }) s
    | none => s)

/-- R148: the effects of a SetZoneConfig that passes. -/
def configureZone (q : ZoneArgs) (s : State) : State :=
  let on := enables s q
  let off := disables s q
  let old := (zoneOf s q.zone).lamp
  let s := updZone q.zone (zoneWith q) s
  let s := if on then enableZone q.zone (relayFade q) s
    else if off then disableZone q.zone s
    else if q.relay.isSome && (zoneOf s q.zone).enabled then moveRelay q.zone (relayFade q) s
    else s
  let s := if q.call.isSome then moveCalls q.zone s else s
  let s := if q.set.isSome then moveSet q.zone s else s
  if q.lamp.isSome then moveLamp old s else s

/-- R147: SetZoneConfig. -/
def doSetZoneConfig (q : ZoneArgs) (s : State) : State × Answer :=
  if badZone q then (s, refuse .invalid)
  else if guarded s then (s, refuse .locked)
  else if enables s q && (programmeRoute s q.zone).isNone && decide (Config.generalRoutes ≤ generalCount s) then
    (raise .routeFull (.key pgmt (56 + q.zone)) s, refuse .full)
  else
    let s := configureZone q s
    (s, okAdj (zoneAdjusted q) (zoneItems s q.zone))

/-- The level of a zone's lamp line; low where it names none. -/
def lampLevel (s : State) (z : Nat) : Bool := match (zoneOf s z).lamp with | some l => (outputOf s l).high | none => false

/-- R147: the programme route as ReadZone reports it: handle, duck, duck fade with a present byte. -/
def programmeItems (s : State) (z : Nat) : List Field :=
  match (programmeRoute s z).bind (fun h => (routeAt s h).map (fun r => (h, r))) with
  | none => [o2 none, s2 0, u1 0]
  | some (h, r) => [u2 h, s2 r.duck] ++ (match r.duckFade with
    | none => [u1 0]
    | some f => [u1 1, s2 f.a, s2 f.b, u4 f.dur, u4 f.n])

/-- R147: ReadZone. -/
def readZoneAnswer (z : Nat) (s : State) : Answer :=
  if 14 < z then refuse .invalid
  else
    let calls := s.rt.routes.keys (fun r => r.owner = .relay && r.dst == 56 + z && r.src != pgmt)
    okWith (zoneItems s z ++ programmeItems s z ++ [u1 calls.length] ++ calls.map u2 ++ [flag (lampLevel s z)])

/-! ## Calls -/

/-- R151: a depth or wait outside its range. -/
def callAdjusted (c : CallArgs) : Bool := decide (clampInt (-1024) 0 c.duck ≠ c.duck) || decide (maxFade < c.maxWait)

/-- The code of a call's state (TABLE 8-3). -/
def callStateCode (c : Call) : Nat := c.active.toNat

/-- R151: PlaceCall. -/
def doPlaceCall (h : Hdr) (c : CallArgs) (s : State) : State × Answer :=
  if badCall c then (s, refuse .invalid)
  else
    let k := callKindOf c.kind c.unit
    match placeRefusal s k with
    | some e => (s, refuse e)
    | none =>
      let zones := resolveZones s c.zones c.groups
      if zones.isEmpty then (s, okAdj (callAdjusted c) [])
      else
        let (s, slot, seq) := enqueueCall k zones c.priority (clampInt (-1024) 0 c.duck) (min c.maxWait maxFade) (.port h.port) s
        let s := scan s
        (s, okAdj (callAdjusted c) [u1 slot, u2 seq, u1 (match callOf s slot with | some x => callStateCode x | none => 0)])

/-- R152: the checks ReleaseCall and CancelCall share, before those on the kind and the state (log 30). -/
def findCall (id seq : Nat) (s : State) : Except Code Call :=
  if 16 < id then .error .invalid
  else match callOf s id with
    | none => .error .notfound
    | some c =>
      if id = 16 then .error .held
      else if c.seq ≠ some seq then .error .stale
      else .ok c

/-- A call is RECORDED. -/
def isRecorded (c : Call) : Bool := match c.kind with | .recorded _ => true | .live _ => false

/-- R152: a LIVE call is ended in whatever state it holds. -/
def dropCall (id : Nat) (c : Call) (s : State) : State := if c.active then endCall id s else removeCall id s

/-- R152: ReleaseCall. -/
def doReleaseCall (id seq : Nat) (s : State) : State × Answer :=
  match findCall id seq s with
  | .error c => (s, refuse c)
  | .ok c => if isRecorded c then (s, refuse .invalid) else (dropCall id c s, okWith [])

/-- R152: CancelCall. -/
def doCancelCall (id seq : Nat) (s : State) : State × Answer :=
  match findCall id seq s with
  | .error c => (s, refuse c)
  | .ok c => if c.active then (s, refuse .busy) else (removeCall id s, okWith [])

/-- The flags of a call as read (12.4). -/
def callFlags (c : Call) : Nat :=
  1 + 2 * c.active.toNat + 4 * (isRecorded c).toNat + 8 * c.started.toNat + 16 * c.seq.isNone.toNat

/-- 12.4: a call in 23 bytes; the wait count of an ACTIVE call, which is not counted, is sent as 0 (log 53). -/
def callItems23 (id : Nat) (c : Call) : List Field :=
  [u1 id, u1 (callFlags c), u2 (c.seq.getD 0), u2 (match c.kind with | .live i => i | .recorded k => k), u2 (maskOf 16 c.zones).toNat,
    u1 c.priority, s2 c.duck, u4 c.maxWait, u4 c.wait, u1 (callOriginCode c.origin), o1 c.voice, u2 (maskOf 16 c.routes).toNat]

/-- R150: ReadCall. -/
def readCallAnswer (id : Nat) (s : State) : Answer :=
  if 16 < id then refuse .invalid
  else match callOf s id with
    | none => { refuse .notfound with data := [u2 s.rl.seq] }
    | some c => okWith (callItems23 id c)

/-- R150: ReadQueue: the calls in arrival order, and the stop call where it exists. -/
def queueAnswer (s : State) : Answer :=
  let l := (s.rl.order ++ [16]).filterMap (fun i => (callOf s i).map (fun c => (i, c)))
  okWith ([u1 l.length] ++ l.flatMap (fun p => callItems23 p.1 p.2))

/-! ## Call presets -/

/-- Check 1 of R151 on a preset's given fields. -/
def badPreset (q : PresetArgs) : Bool :=
  7 < q.preset || badCall ⟨(q.kind.getD (0, 96)).1, (q.kind.getD (0, 96)).2, q.zones.getD 0, 0, q.priority.getD 0, 0, 0⟩

/-- R159: a preset with the given items, clamped. -/
def presetWith (q : PresetArgs) (x : CallPreset) : CallPreset :=
  { x with
    kind := (q.kind.map (fun k => callKindOf k.1 k.2)).getD x.kind
    zones := q.zones.getD x.zones
    groups := q.groups.getD x.groups
    priority := q.priority.getD x.priority
    duck := (q.duck.map (clampInt (-1024) 0)).getD x.duck
    maxWait := (q.maxWait.map (min · maxFade)).getD x.maxWait
    place := q.place.getD x.place
    release := q.release.getD x.release }

/-- R159: a depth or wait outside its range. -/
def presetAdjusted (q : PresetArgs) : Bool :=
  (match q.duck with | some d => decide (clampInt (-1024) 0 d ≠ d) | none => false)
  || (match q.maxWait with | some n => decide (maxFade < n) | none => false)

/-- R159: SetCallPreset; INVALID before LOCKED (log 30). -/
def doSetCallPreset (q : PresetArgs) (s : State) : State × Answer :=
  if badPreset q then (s, refuse .invalid)
  else if guarded s then (s, refuse .locked)
  else (updCallPreset q.preset (presetWith q) s, okAdj (presetAdjusted q) [])

/-- R159: ReadCallPreset. -/
def callPresetAnswer (p : Nat) (s : State) : Answer :=
  if 7 < p then refuse .invalid
  else
    let x := callPresetOf s p
    okWith ((match x.kind with | .live i => [u1 0, u2 i] | .recorded c => [u1 1, u2 c])
      ++ [u2 x.zones.toNat, u1 x.groups.toNat, u1 x.priority, s2 x.duck, u4 x.maxWait, u2 x.place, u2 x.release]
      ++ (match x.placed with | some (i, n) => [u1 i, u2 n] | none => [o1 none, u2 0]))

/-- R160: a delivery to a preset's place link. -/
def placeLink (p : Nat) (s : State) : State :=
  match placeRefusal s (callPresetOf s p).kind with
  | some _ => s
  | none => placePreset p (.preset p) s

/-- R160: a delivery to a preset's release link. -/
def releaseLink (p : Nat) (s : State) : State :=
  match (callPresetOf s p).placed with
  | none => s
  | some (i, n) => (match callOf s i with
    | none => s
    | some c => if isRecorded c ∨ c.seq ≠ some n then s else dropCall i c s)

/-! ## The commands -/

/-- SET_ZONE_CONFIG (R147) -/
def runSetZoneConfig (h : Hdr) (z : ZoneArgs) : State → State := answerWith h false (doSetZoneConfig z)
/-- READ_ZONE (R147) -/
def runReadZone (h : Hdr) (zone : Nat) : State → State := answerWith h true (reading (readZoneAnswer zone))
/-- PLACE_CALL (R151) -/
def runPlaceCall (h : Hdr) (c : CallArgs) : State → State := answerWith h true (doPlaceCall h c)
/-- RELEASE_CALL (R152) -/
def runReleaseCall (h : Hdr) (id seq : Nat) : State → State := answerWith h true (doReleaseCall id seq)
/-- CANCEL_CALL (R152) -/
def runCancelCall (h : Hdr) (id seq : Nat) : State → State := answerWith h true (doCancelCall id seq)
/-- READ_CALL (R150) -/
def runReadCall (h : Hdr) (id : Nat) : State → State := answerWith h true (reading (readCallAnswer id))
/-- READ_QUEUE (R150) -/
def runReadQueue (h : Hdr) : State → State := answerWith h true (reading queueAnswer)
/-- SET_CALL_PRESET (R159) -/
def runSetCallPreset (h : Hdr) (p : PresetArgs) : State → State := answerWith h false (doSetCallPreset p)
/-- READ_CALL_PRESET (R159) -/
def runReadCallPreset (h : Hdr) (preset : Nat) : State → State := answerWith h true (reading (callPresetAnswer preset))
/-- PRESET_PLACE_LINK (R160); there are eight presets. -/
def execPresetPlaceLink (preset : Nat) (s : State) : Result :=
  if preset < 8 then .next (deliver (.place preset) (fun _ => placeLink preset) s) else .fault .noSuchUnit
/-- PRESET_RELEASE_LINK (R160) -/
def execPresetReleaseLink (preset : Nat) (s : State) : Result :=
  if preset < 8 then .next (deliver (.release preset) (fun _ => releaseLink preset) s) else .fault .noSuchUnit

end Sys2Proof.Machine
end

