-- ==== Sys2Proof/Machine/ShowOps.lean ====
section
/-! DEFINITION. Show stop (R181, R182, R161, R124, R60), show resume (R183, R162, R125, R61) and PresetShow (R184) over every block. -/

namespace Sys2Proof.Machine

/-! ## Stop -/

/-- R182: the destinations of the SHOWSTOP routes, rising, each with its stop level and status set. -/
def stopTargets (s : State) : List (Nat × Int × Nat) :=
  (List.range 24).filterMap (fun z => if s.ss.audMask.getLsbD z then some (z, s.ss.audLevel, dstSet s z) else none)
  ++ (List.range 32).filterMap (fun m => if (mixOf s m).stopFeed then some (24 + m, s.ss.foldLevel, dstSet s (24 + m)) else none)
  ++ (List.range 15).map (fun z => (56 + z, s.ss.relayLevel, (zoneOf s z).set))

/-- R182: one SHOWSTOP route. -/
def stopRoute (s : State) (t : Nat × Int × Nat) : State :=
  (createRoute ⟨s.ss.stopSource, t.1, .showstop, .step t.2.1, none, .relay, none, t.2.2, false⟩ s).1

/-- R161: every ACTIVE call is preempted in rising slot order, the stop call takes every zone, programme ducks go to -1024 over each
zone's attack, lamps are driven high and the zone events emitted. The stop call's wait count, which R161 does not name, is 0 (log 53). -/
def relayStop (cause : CallOrigin) (s : State) : State :=
  let (s, _) := preemptAll (s.rl.calls.keys (·.active)) s
  let zs := List.range 15
  let c : Call := ⟨none, .live s.ss.stopSource, zs, 3, -1024, 0, 0, cause, true, none, false, []⟩
  let s := { s with rl := { s.rl with calls := s.rl.calls.store 16 c } }
  s |> forEach zs (fun z => updZone z (fun x => { x with holder := some 16 }))
    |> forEach zs (fun z s => duckTo z (-1024) (zoneOf s z).attack s)
    |> refreshLamps |> emitStarts zs

/-- R124, R125, R119: what a stop does to one voice of a running label: one PLAYING or STOPPING gets a new ramp DOWN, or its UP ramp turned DOWN from
where it stands; any other loses the mark of a start that a boundary made and the stop finds not taken, so that the start waits for the first
boundary after the resume (log 22). -/
def pauseVoice (ramp : Nat) (v : Voice) : Voice :=
  match v.claimant with
  | some (.running _ _ _) =>
    if v.state = .playing ∨ v.state = .stopping then
      { v with state := .pausing
               ramp := match v.ramp with
                 | some p => some { p with up := false }
                 | none => some ⟨0, ramp, false, v.state = .stopping⟩ }
    else { v with starting := false }
  | _ => v

/-- R60: what a stop does to one batch. -/
def suspendBatch (b : Batch) : Batch := if b.cls = .cue then { b with suspended := true } else b

/-- R83: a trigger that a boundary brought due and that was not taken before the stop waits for a boundary after the resume. -/
def holdTrigger (q : CueList) : CueList := { q with trigger := q.trigger.map (fun p => { p with due := false }) }

/-- A stop cause by its place in TABLE 10-1: port A 0, port B 1, the stop link 2, the only other cause there is (R181). -/
def stopCauseCode : CallOrigin → Nat
  | .port .a => 0
  | .port .b => 1
  | .list _ | .preset _ | .stopLink => 2

/-- R181: the stop is taken with its cause, the subject of SHOW-STOP; event 176 follows the zone events. The SHOWSTOP routes are made before the
preempted calls' routes are released (log 38). -/
def takeStop (cause : CallOrigin) (s : State) : State :=
  let s := { s with ss := { s.ss with stopped := true, stopCause := some cause } }
  let s := (stopTargets s).foldl stopRoute s
  let s := relayStop cause s
  let s := { s with
    ve := { s.ve with voices := s.ve.voices.mapWrite Voice.init (fun _ => pauseVoice s.ve.pauseRamp) }
    ru := { s.ru with batches := s.ru.batches.mapAll (fun _ => suspendBatch) }
    cq := { s.cq with lists := s.cq.lists.mapWrite CueList.init (fun _ => holdTrigger) } }
  s |> emit 176 |> raise .showStop (.num (stopCauseCode cause))

/-! ## Resume -/

/-- R125: what a resume does to one voice. -/
def unpauseVoice (v : Voice) : Voice :=
  match v.ramp with
  | none => v
  | some p => { v with ramp := some { p with up := true }
                       state := if v.state = .pausing ∨ v.state = .paused then (if p.stopping then .stopping else .playing) else v.state }

/-- R162: the stop call ends. -/
def relayResume (s : State) : State :=
  let zs := List.range 15
  s |> removeCall 16 |> freeZones zs |> refreshLamps |> emitFreed zs |> scan

/-- R183: the resume is taken; event 177 follows the zone events. Voices that consume again make their
requests (R115) after the rescan, in rising voice number (log 41). -/
def takeResume (s : State) : State :=
  let s := { s with ss := { s.ss with stopped := false, stopCause := none } }
  let s := releaseWhere (fun r => r.owner = .showstop) s
  let s := relayResume s
  let s := { s with
    ve := { s.ve with voices := s.ve.voices.mapWrite Voice.init (fun _ => unpauseVoice) }
    ru := { s.ru with batches := s.ru.batches.mapAll (fun _ b => { b with suspended := false }) } }
  s |> forEach (List.range 32) makeRequest |> emit 177

/-! ## Preset -/

/-- R24: the records a preset releases. -/
def presetReleases (r : Route) : Bool :=
  r.state = .retiring || ownedByCue r.owner || r.owner = .showstop || isVoice r.src || (r.owner = .relay && isAnnounce r.src)

/-- R24: what a preset makes of a kept record. -/
def presetRoute (r : Route) : Route :=
  { r with base := match r.fade with | some f => f.b | none => r.base
           fade := none, duck := 0, duckFade := none }

/-- R24, R62: the route table and the batches. Every started-by is discarded, the running sets being emptied by the same preset. -/
def presetRoutes (s : State) : State :=
  let gone := s.rt.routes.keys presetReleases
  { s with
    rt := { routes := Table.mapAll (fun _ => presetRoute) (s.rt.routes.filter (fun p => !presetReleases p.2))
            gens := gone.foldl (fun g h => g.write 0 h ((g.read 0 h + 1) % 65536)) s.rt.gens }
    ru := { s.ru with batches := [] } }

/-- R128: what a preset makes of one voice: FREE, the shown fields kept. -/
def presetVoice (v : Voice) : Voice :=
  if v.state = .free then v else
    { v with state := .free, claimant := none, buffer := [], fade := none, ramp := none, startDue := false, startAligned := false
             underruns := 0, inUnderrun := false, exitAt := none, fadeInBy := none, atEnd := false, starting := false, ending := false }

/-- R128: the voices are freed without settlement or hand-on, the wait list and the arbiter's voice requests emptied; a transfer in
progress for a voice will be discarded. -/
def presetVoices (s : State) : State :=
  { s with
    ve := { s.ve with voices := s.ve.voices.mapWrite Voice.init (fun _ => presetVoice), waits := [] }
    smp := { s.smp with
      requests := []
      transfer := match s.smp.transfer with
        | some (.fetch v a k cap _) => some (.fetch v a k cap true)
        | t => t } }

/-- R163: calls removed, zones free, lamps low, placed calls none. -/
def presetRelay (s : State) : State :=
  refreshLamps { s with rl := { s.rl with
    zones := s.rl.zones.mapWrite Zone.init (fun _ z => { z with holder := none })
    calls := [], order := []
    presets := s.rl.presets.mapWrite CallPreset.init (fun _ p => { p with placed := none }) } }

/-- R89: what a preset makes of one list but for its standby. -/
def presetList (q : CueList) : CueList := { q with running := [], trigger := none, sinceGo := none, standby := none, state := .empty }

/-- R176: watch results NONE, FUNCTION lines low (RELAY lines are low by R163). -/
def presetFabric (s : State) : State :=
  { s with ef := { s.ef with
    watches := s.ef.watches.mapWrite Watch.init (fun _ w => { w with last := none })
    outputs := s.ef.outputs.mapWrite ContactOut.init (fun l o => if o.fnOwned && !isLamp s l then { o with high := false } else o) } }

/-- R89: the first cue of a list becomes its standby, and claims its voices. -/
def presetStandby (l : Nat) (s : State) : State :=
  match cueFrom s l 0 with
  | none => s
  | some n => takeStandby l n s

/-- R184, TABLE 10-4: every block takes its preset values; then the lists claim in list order 0 to 3. -/
def takePreset (s : State) : State :=
  let s := { s with
    ss := { s.ss with stopped := false, stopCause := none }
    le := { s.le with sets := s.le.sets.mapWrite StatusSet.init (fun _ x => { x with flags := Flags.none }) }
    cf := { s.cf with values := s.cf.presets }
    cq := { cues := s.cq.cues.mapAll (fun _ c => { c with outcome := none })
            lists := s.cq.lists.mapWrite CueList.init (fun _ => presetList) } }
  s |> presetRoutes |> presetVoices |> presetRelay |> presetFabric |> forEach (List.range 4) presetStandby

end Sys2Proof.Machine
end

