-- ==== Sys2Proof/Machine/ShowRequests.lean ====
section
/-! DEFINITION. The show state controller's and the notice table's requests (R177, R180, R181, R183, R184, R193, R194, R196), the stop and
resume links, and their commands. Reply layouts: log 19. -/

namespace Sys2Proof.Machine

/-! ## Lock and stop configuration -/

/-- R177: LockShow. -/
def doLockShow (s : State) : State × Answer :=
  if s.ss.locked then (s, refuse .nochange) else (emit 178 { s with ss := { s.ss with locked := true } }, okWith [])

/-- R177: UnlockShow. -/
def doUnlockShow (s : State) : State × Answer :=
  if s.ss.locked = false then (s, refuse .nochange)
  else if s.ss.key = false then (s, refuse .keyreq)
  else (emit 179 { s with ss := { s.ss with locked := false } }, okWith [])

/-- Check 1 of R180. -/
def badStop (q : StopArgs) : Bool :=
  (match q.src with | some n => !isAnnounce n | none => false) || (match q.mask with | some m => decide (2 ^ 24 ≤ m.toNat) | none => false)

/-- Check 4 of R180: a new stop source that some record not owned by SHOWSTOP has as its source. -/
def stopBusy (s : State) (q : StopArgs) : Bool :=
  match q.src with
  | none => false
  | some n => n != s.ss.stopSource && s.rt.routes.any (fun p => p.2.src == n && p.2.owner != .showstop)

/-- R180: the configuration with the given items, levels clamped. -/
def stopWith (q : StopArgs) (x : ShowState) : ShowState :=
  { x with
    stopSource := q.src.getD x.stopSource
    audLevel := (q.aud.map (clampInt (-1024) 192)).getD x.audLevel
    foldLevel := (q.fold.map (clampInt (-1024) 192)).getD x.foldLevel
    relayLevel := (q.relay.map (clampInt (-1024) 192)).getD x.relayLevel
    audMask := (q.mask.map (·.setWidth 24)).getD x.audMask }

/-- R180: a stop level outside its range. -/
def stopAdjusted (q : StopArgs) : Bool :=
  [q.aud, q.fold, q.relay].any (fun o => match o with | some l => decide (clampInt (-1024) 192 l ≠ l) | none => false)

/-- R180: SetStopConfig. -/
def doSetStopConfig (q : StopArgs) (s : State) : State × Answer :=
  if badStop q then (s, refuse .invalid)
  else if s.ss.stopped then (s, refuse .held)
  else if guarded s then (s, refuse .locked)
  else if stopBusy s q then (s, refuse .busy)
  else ({ s with ss := stopWith q s.ss }, okAdj (stopAdjusted q) [])

/-- R180: ReadShowState: every item of TABLE 10-1, and the handles of the SHOWSTOP routes while the show is STOPPED. The key level is sent as a
flag, 1 for asserted, and the handles stand in rising order (log 19). -/
def showStateAnswer (s : State) : Answer :=
  let hs := if s.ss.stopped then s.rt.routes.keys (fun r => r.owner = .showstop) else []
  okWith ([flag s.ss.locked, flag s.ss.stopped, o1 (s.ss.stopCause.map stopCauseCode), flag s.ss.key, u1 s.ss.stopSource, s2 s.ss.audLevel,
    s2 s.ss.foldLevel, s2 s.ss.relayLevel, u4 s.ss.audMask.toNat, u1 hs.length] ++ hs.map u2)

/-! ## Stop, resume and preset -/

/-- R181: ShowStop. -/
def doShowStop (h : Hdr) (s : State) : State × Answer :=
  if s.ss.stopped then (s, refuse .nochange) else (takeStop (.port h.port) s, okWith [])

/-- R183: ShowResume. -/
def doShowResume (s : State) : State × Answer := if s.ss.stopped then (takeResume s, okWith []) else (s, refuse .nochange)

/-- R181: a delivery to the stop link. -/
def linkStop (s : State) : State := if s.ss.stopped then s else takeStop .stopLink s

/-- R183: a delivery to the resume link. -/
def linkResume (s : State) : State := if s.ss.stopped then takeResume s else s

/-- R184: PresetShow. -/
def doPresetShow (s : State) : State × Answer := if guarded s then (s, refuse .locked) else (takePreset s, okWith [])

/-! ## Notices -/

/-- A subject as read: two bytes, a route's key as source and destination (log 19); 0xFFFF where absent. -/
def subjectItems : Option Subject → List Field
  | none => [o2 none]
  | some (.num n) => [u2 n]
  | some (.key src dst) => [u1 src, u1 dst]

/-- The record of a notice kind by its place in TABLE 11-4. -/
def noticeAt (s : State) (k : Nat) : Notice := s.nt.kinds.read Notice.init k

/-- R194: the pending kinds, in the table's order. -/
def pendingKinds (s : State) : List Nat := (List.range 19).filter (fun k => (noticeAt s k).pending)

/-- R194: FetchNotices: every pending kind is reported, and its flag and count cleared; the last subjects are kept. -/
def doFetchNotices (s : State) : State × Answer :=
  ({ s with nt := { s.nt with kinds := s.nt.kinds.mapWrite Notice.init (fun _ x => if x.pending then { x with pending := false, count := 0 } else x) } },
    okWith ([u1 (pendingKinds s).length]
      ++ (pendingKinds s).flatMap (fun k => [u1 k, u2 (noticeAt s k).count] ++ subjectItems (noticeAt s k).subject)))

/-- A node's record. -/
def nodeOf (s : State) (n : Nat) : Node := s.nt.nodes.read Node.init n

/-- R194: ReadNotices. -/
def noticesAnswer (s : State) : Answer :=
  okWith ([u1 19] ++ (List.range 19).flatMap (fun k => [flag (noticeAt s k).pending, u2 (noticeAt s k).count] ++ subjectItems (noticeAt s k).subject)
    ++ [u1 4] ++ (List.range 4).flatMap (fun n => [flag (nodeOf s n).enable, u4 (nodeOf s n).mask.toNat]))

/-- R193: SetNoticeNode. -/
def doSetNoticeNode (node : Nat) (enable : Option Bool) (mask : Option (BitVec 32)) (s : State) : State × Answer :=
  if 3 < node || (match mask with | some m => decide (2 ^ 19 ≤ m.toNat) | none => false) then (s, refuse .invalid)
  else
    let x := nodeOf s node
    let y : Node := ⟨enable.getD x.enable, (mask.map (·.setWidth 19)).getD x.mask⟩
    ({ s with nt := { s.nt with nodes := s.nt.nodes.write Node.init node y } }, okWith [])

/-- R196: ReadIdentity: part code, revision, capacities in the rule's order, memory size. The widths of the first two and the last are the model's
choice (log 9). -/
def identityAnswer (s : State) : Answer :=
  okWith [u2 5318, u2 (Config.revision % 65536), u2 Config.routeSlots, u2 Config.generalRoutes, u2 Config.showstopRoutes, u2 Config.routesPerDest,
    u2 Config.cues, u2 Config.actions, u2 512, u2 32, u2 8, u2 16, u4 s.smp.size]

/-! ## The commands -/

/-- LOCK_SHOW (R177) -/
def runLockShow (h : Hdr) : State → State := answerWith h false doLockShow
/-- UNLOCK_SHOW (R177) -/
def runUnlockShow (h : Hdr) : State → State := answerWith h false doUnlockShow
/-- SET_STOP_CONFIG (R180) -/
def runSetStopConfig (h : Hdr) (c : StopArgs) : State → State := answerWith h false (doSetStopConfig c)
/-- READ_SHOW_STATE (R180) -/
def runReadShowState (h : Hdr) : State → State := answerWith h true (reading showStateAnswer)
/-- SHOW_STOP (R181) -/
def runShowStop (h : Hdr) : State → State := answerWith h true (doShowStop h)
/-- SHOW_RESUME (R183) -/
def runShowResume (h : Hdr) : State → State := answerWith h true doShowResume
/-- STOP_LINK (R181) -/
def execStopLink (s : State) : Result := .next (deliver .stop (fun _ => linkStop) s)
/-- RESUME_LINK (R183) -/
def execResumeLink (s : State) : Result := .next (deliver .resume (fun _ => linkResume) s)
/-- PRESET_SHOW (R184) -/
def runPresetShow (h : Hdr) : State → State := answerWith h false doPresetShow
/-- FETCH_NOTICES (R194) -/
def runFetchNotices (h : Hdr) : State → State := answerWith h false doFetchNotices
/-- READ_NOTICES (R194) -/
def runReadNotices (h : Hdr) : State → State := answerWith h true (reading noticesAnswer)
/-- SET_NOTICE_NODE (R193) -/
def runSetNoticeNode (h : Hdr) (node : Nat) (enable : Option Bool) (mask : Option (BitVec 32)) : State → State :=
  answerWith h false (doSetNoticeNode node enable mask)
/-- READ_IDENTITY (R196) -/
def runReadIdentity (h : Hdr) : State → State := answerWith h true (reading identityAnswer)

end Sys2Proof.Machine
end

