-- ==== Sys2Proof/Machine/Taking.lean ====
section
/-! DEFINITION. The ports take their requests (R190): what each kind does once taken, the taking of the requests that wait, and the transactions
and the transfer after which a port takes its next request (R189, R191, R113). -/

namespace Sys2Proof.Machine

/-- R186, R190: a request that has left its queue is checked and acts; its reply joins the reply queue once it completes. -/
def runRequest (i : Instr) : State → State :=
  match i with
  | .coldReset => id
  | .startUpComplete _ => id
  | .writeRequest _ _ => id
  | .readReply _ _ => id
  | .unknownSelector _ _ => id
  | .unknownRequest h _ => runUnknownRequest h
  | .postRoute h r => runPostRoute h r
  | .amendRoute h r => runAmendRoute h r
  | .lookupRoute h src dst => runLookupRoute h src dst
  | .readRoute h handle => runReadRoute h handle
  | .listRoutes h dst start => runListRoutes h dst start
  | .setSourceTrim h src trim => runSetSourceTrim h src trim
  | .setMaster h dst level set => runSetMaster h dst level set
  | .setStatusControls h set clamp round mask => runSetStatusControls h set clamp round mask
  | .readStatus h set => runReadStatus h set
  | .clearStatus h set mask => runClearStatus h set mask
  | .readMeters h first count => runReadMeters h first count
  | .readLevels h => runReadLevels h
  | .retireRoute h route dur curve => runRetireRoute h route dur curve
  | .retireGroup h owner dst dur curve => runRetireGroup h owner dst dur curve
  | .setRetireWindow h window => runSetRetireWindow h window
  | .readBatch h id => runReadBatch h id
  | .postCue h c => runPostCue h c
  | .replaceCue h c => runReplaceCue h c
  | .retireCue h list number => runRetireCue h list number
  | .readCue h list number atOrAfter => runReadCue h list number atOrAfter
  | .setStandby h list number => runSetStandby h list number
  | .setListConfig h list guard promptGo => runSetListConfig h list guard promptGo
  | .readList h list => runReadList h list
  | .go h list => runGo h list
  | .setCondition h cond value => runSetCondition h cond value
  | .setConditionPreset h cond value => runSetConditionPreset h cond value
  | .readConditions h => runReadConditions h
  | .setConditionLink h link eventId cond value => runSetConditionLink h link eventId cond value
  | .postClip h c => runPostClip h c
  | .retireClip h id => runRetireClip h id
  | .readClip h id => runReadClip h id
  | .writeSamples h addr words => runWriteSamples h addr words
  | .transferComplete => id
  | .setPauseRamp h ramp => runSetPauseRamp h ramp
  | .readVoice h voice => runReadVoice h voice
  | .voiceStart _ => id
  | .voiceEnd _ => id
  | .voiceFadeComplete _ => id
  | .pauseRampEnd _ => id
  | .pauseRampUpEnd _ => id
  | .samplePeriod _ => id
  | .frameBoundary => id
  | .baseFadeComplete _ => id
  | .duckFadeComplete _ => id
  | .windowExpiry _ => id
  | .batchComplete _ => id
  | .triggerDue _ => id
  | .meterWindow => id
  | .timerPeriod _ => id
  | .callExpired _ => id
  | .contactChange _ _ => id
  | .contactSettle _ => id
  | .keyChange _ => id
  | .setMixConfig h m => runSetMixConfig h m
  | .setFoldbackBase h f => runSetFoldbackBase h f
  | .setFoldbackBaseRemove h f => runSetFoldbackBaseRemove h f
  | .readMix h mix => runReadMix h mix
  | .enrolPanel h addr mix => runEnrolPanel h addr mix
  | .withdrawPanel h addr => runWithdrawPanel h addr
  | .readPanels h => runReadPanels h
  | .pollSlot => id
  | .pollUnanswered _ => id
  | .panelLost _ => id
  | .panelAnswer _ => id
  | .ident _ _ _ _ => id
  | .nudge _ _ _ _ _ => id
  | .setTrim _ _ _ _ _ => id
  | .mute _ _ _ _ _ => id
  | .recall _ _ _ => id
  | .readMixPanel _ _ _ => id
  | .setZoneConfig h z => runSetZoneConfig h z
  | .readZone h zone => runReadZone h zone
  | .placeCall h c => runPlaceCall h c
  | .releaseCall h id seq => runReleaseCall h id seq
  | .cancelCall h id seq => runCancelCall h id seq
  | .readCall h id => runReadCall h id
  | .readQueue h => runReadQueue h
  | .setCallPreset h p => runSetCallPreset h p
  | .readCallPreset h preset => runReadCallPreset h preset
  | .setLink h slot eventId => runSetLink h slot eventId
  | .readLinks h => runReadLinks h
  | .raiseEvent h host => runRaiseEvent h host
  | .goLink _ => id
  | .eventTriggerArrival _ => id
  | .outputFunction _ => id
  | .watchEvaluation _ => id
  | .presetPlaceLink _ => id
  | .presetReleaseLink _ => id
  | .conditionLink _ => id
  | .stopLink => id
  | .resumeLink => id
  | .setContactInput h c => runSetContactInput h c
  | .readContacts h => runReadContacts h
  | .setContactOutputs h mask levels => runSetContactOutputs h mask levels
  | .setOutputOwner h mask owner => runSetOutputOwner h mask owner
  | .setOutputFunction h fn trigger setMask clearMask => runSetOutputFunction h fn trigger setMask clearMask
  | .setWatch h w => runSetWatch h w
  | .readWatch h watch => runReadWatch h watch
  | .lockShow h => runLockShow h
  | .unlockShow h => runUnlockShow h
  | .setStopConfig h c => runSetStopConfig h c
  | .readShowState h => runReadShowState h
  | .showStop h => runShowStop h
  | .showResume h => runShowResume h
  | .presetShow h => runPresetShow h
  | .fetchNotices h => runFetchNotices h
  | .readNotices h => runReadNotices h
  | .setNoticeNode h node enable mask => runSetNoticeNode h node enable mask
  | .readIdentity h => runReadIdentity h

/-- R190: at most `n` requests taken from the head of the queue, in arrival order, each a cause of its own, while the port may take one. -/
def takeRounds (p : Port) : Nat → State → State
  | 0, s => s
  | n + 1, s =>
    if canTake s p then
      match (portOf s p).requests with
      | [] => s
      | i :: rest => takeRounds p n (runRequest i (begin 1 (updPort p (fun x => { x with requests := rest }) s)))
    else s

/-- R190: the port takes its requests, one after another, until none is left or it may take no more. -/
def takeWaiting (p : Port) (s : State) : State := takeRounds p (portOf s p).requests.length s

/-- R189, R190: a request arrives at its port, and the port takes what it may. A request row carries no transaction: no status byte is
sent and the dropped flag stands (log 3). -/
def request (i : Instr) (h : Hdr) (s : State) : Result := .next (takeWaiting h.port (arrive h.port i s))

/-- R191: the reply at the head leaves once its whole frame is clocked; a place is free, and the port takes its next request (R190).
Bytes clocked beyond a whole frame read as 0 (log 46). -/
def readReply (p : Port) (clocked : Nat) (s : State) : State :=
  match (portOf s p).replies with
  | [] => transact p (List.replicate clocked 0) s
  | r :: rest =>
    let frame := replyFrame r
    let s := transact p ((frame ++ List.replicate clocked 0).take clocked) s
    if frame.length ≤ clocked then takeWaiting p (updPort p (fun x => { x with replies := rest }) s) else s

/-- R189, R197: a WRITE-REQUEST transaction: a short frame is discarded, a whole one arrives and is taken where the port may (R190).
The status byte alone is kept as what the engine sends (log 48). -/
def writeRequest (p : Port) (bytes : List Byte) (s : State) : State :=
  let s := transact p [] s
  match requestFrame p bytes with
  | none => s
  | some i => takeWaiting p (arrive p i s)

/-- R113, R190: the transfer in progress completes; after a WriteSamples port A takes its next request. -/
def endTransfer (s : State) : State :=
  match s.smp.transfer with
  | some (.write _) => takeWaiting .a (completeTransfer s)
  | _ => completeTransfer s

end Sys2Proof.Machine
end

