-- ==== Sys2Proof/Machine/Requests.lean ====
section
/-! DEFINITION. The commands of the control ports: the two transactions, the end of a transfer, and a row for each kind of request, which
arrives and is taken by R189 and R190 (log 3); what a request does once taken stands in its family's file, as `run...`. -/

namespace Sys2Proof.Machine

/-- WRITE_REQUEST (R189) -/
def execWriteRequest (port : Port) (bytes : List Byte) (s : State) : Result := .next (writeRequest port bytes s)
/-- READ_REPLY (R191) -/
def execReadReply (port : Port) (clocked : Nat) (s : State) : Result := .next (readReply port clocked s)
/-- TRANSFER_COMPLETE (R115) -/
def execTransferComplete (s : State) : Result := .next (endTransfer (begin 1 s))
/-- UNKNOWN_REQUEST (R186): answered INVALID on either port. -/
def execUnknownRequest (h : Hdr) (kind : Nat) (s : State) : Result := request (.unknownRequest h kind) h s
/-- POST_ROUTE (R12) -/
def execPostRoute (h : Hdr) (r : PostArgs) (s : State) : Result := request (.postRoute h r) h s
/-- AMEND_ROUTE (R13) -/
def execAmendRoute (h : Hdr) (r : AmendArgs) (s : State) : Result := request (.amendRoute h r) h s
/-- LOOKUP_ROUTE (R15) -/
def execLookupRoute (h : Hdr) (src dst : Nat) (s : State) : Result := request (.lookupRoute h src dst) h s
/-- READ_ROUTE (R15) -/
def execReadRoute (h : Hdr) (handle : Nat) (s : State) : Result := request (.readRoute h handle) h s
/-- LIST_ROUTES (R16) -/
def execListRoutes (h : Hdr) (dst : Nat) (start : Option Nat) (s : State) : Result := request (.listRoutes h dst start) h s
/-- SET_SOURCE_TRIM (R27) -/
def execSetSourceTrim (h : Hdr) (src : Nat) (trim : Int) (s : State) : Result := request (.setSourceTrim h src trim) h s
/-- SET_MASTER (R28) -/
def execSetMaster (h : Hdr) (dst : Nat) (level : Level) (set : Option Nat) (s : State) : Result := request (.setMaster h dst level set) h s
/-- SET_STATUS_CONTROLS (R44) -/
def execSetStatusControls (h : Hdr) (set : Nat) (clamp round : Option Nat) (mask : Option (BitVec 8)) (s : State) : Result :=
  request (.setStatusControls h set clamp round mask) h s
/-- READ_STATUS (R44) -/
def execReadStatus (h : Hdr) (set : Nat) (s : State) : Result := request (.readStatus h set) h s
/-- CLEAR_STATUS (R46) -/
def execClearStatus (h : Hdr) (set : Nat) (mask : BitVec 8) (s : State) : Result := request (.clearStatus h set mask) h s
/-- READ_METERS (R43) -/
def execReadMeters (h : Hdr) (first count : Nat) (s : State) : Result := request (.readMeters h first count) h s
/-- READ_LEVELS (R43) -/
def execReadLevels (h : Hdr) (s : State) : Result := request (.readLevels h) h s
/-- RETIRE_ROUTE (R58) -/
def execRetireRoute (h : Hdr) (route : RouteRef) (dur curve : Option Nat) (s : State) : Result :=
  request (.retireRoute h route dur curve) h s
/-- RETIRE_GROUP (R59) -/
def execRetireGroup (h : Hdr) (owner : Nat) (dst dur curve : Option Nat) (s : State) : Result :=
  request (.retireGroup h owner dst dur curve) h s
/-- SET_RETIRE_WINDOW (R53) -/
def execSetRetireWindow (h : Hdr) (window : Nat) (s : State) : Result := request (.setRetireWindow h window) h s
/-- READ_BATCH (R61) -/
def execReadBatch (h : Hdr) (id : Nat) (s : State) : Result := request (.readBatch h id) h s
/-- POST_CUE (R64) -/
def execPostCue (h : Hdr) (c : CueArgs) (s : State) : Result := request (.postCue h c) h s
/-- REPLACE_CUE (R65) -/
def execReplaceCue (h : Hdr) (c : CueArgs) (s : State) : Result := request (.replaceCue h c) h s
/-- RETIRE_CUE (R66) -/
def execRetireCue (h : Hdr) (list number : Nat) (s : State) : Result := request (.retireCue h list number) h s
/-- READ_CUE (R67) -/
def execReadCue (h : Hdr) (list number : Nat) (atOrAfter : Bool) (s : State) : Result := request (.readCue h list number atOrAfter) h s
/-- SET_STANDBY (R71) -/
def execSetStandby (h : Hdr) (list number : Nat) (s : State) : Result := request (.setStandby h list number) h s
/-- SET_LIST_CONFIG (R74) -/
def execSetListConfig (h : Hdr) (list : Nat) (guard : Option Nat) (promptGo : Option Bool) (s : State) : Result :=
  request (.setListConfig h list guard promptGo) h s
/-- READ_LIST (R87) -/
def execReadList (h : Hdr) (list : Nat) (s : State) : Result := request (.readList h list) h s
/-- GO (R73) -/
def execGo (h : Hdr) (list : Nat) (s : State) : Result := request (.go h list) h s
/-- SET_CONDITION (R108) -/
def execSetCondition (h : Hdr) (cond : Nat) (value : Bool) (s : State) : Result := request (.setCondition h cond value) h s
/-- SET_CONDITION_PRESET (R108) -/
def execSetConditionPreset (h : Hdr) (cond : Nat) (value : Bool) (s : State) : Result := request (.setConditionPreset h cond value) h s
/-- READ_CONDITIONS (R108) -/
def execReadConditions (h : Hdr) (s : State) : Result := request (.readConditions h) h s
/-- SET_CONDITION_LINK (R109) -/
def execSetConditionLink (h : Hdr) (link eventId cond : Nat) (value : Bool) (s : State) : Result :=
  request (.setConditionLink h link eventId cond value) h s
/-- POST_CLIP (R111) -/
def execPostClip (h : Hdr) (c : ClipArgs) (s : State) : Result := request (.postClip h c) h s
/-- RETIRE_CLIP (R112) -/
def execRetireClip (h : Hdr) (id : Nat) (s : State) : Result := request (.retireClip h id) h s
/-- READ_CLIP (R112) -/
def execReadClip (h : Hdr) (id : Nat) (s : State) : Result := request (.readClip h id) h s
/-- WRITE_SAMPLES (R113) -/
def execWriteSamples (h : Hdr) (addr : Nat) (words : List Sample) (s : State) : Result := request (.writeSamples h addr words) h s
/-- SET_PAUSE_RAMP (R124) -/
def execSetPauseRamp (h : Hdr) (ramp : Nat) (s : State) : Result := request (.setPauseRamp h ramp) h s
/-- READ_VOICE (R117) -/
def execReadVoice (h : Hdr) (voice : Nat) (s : State) : Result := request (.readVoice h voice) h s
/-- SET_MIX_CONFIG (R130) -/
def execSetMixConfig (h : Hdr) (m : MixArgs) (s : State) : Result := request (.setMixConfig h m) h s
/-- SET_FOLDBACK_BASE (R133) -/
def execSetFoldbackBase (h : Hdr) (f : FbArgs) (s : State) : Result := request (.setFoldbackBase h f) h s
/-- SET_FOLDBACK_BASE_REMOVE (R134) -/
def execSetFoldbackBaseRemove (h : Hdr) (f : FbArgs) (s : State) : Result := request (.setFoldbackBaseRemove h f) h s
/-- READ_MIX (R135) -/
def execReadMix (h : Hdr) (mix : Nat) (s : State) : Result := request (.readMix h mix) h s
/-- ENROL_PANEL (R136) -/
def execEnrolPanel (h : Hdr) (addr : Nat) (mix : Option Nat) (s : State) : Result := request (.enrolPanel h addr mix) h s
/-- WITHDRAW_PANEL (R136) -/
def execWithdrawPanel (h : Hdr) (addr : Nat) (s : State) : Result := request (.withdrawPanel h addr) h s
/-- READ_PANELS (R136) -/
def execReadPanels (h : Hdr) (s : State) : Result := request (.readPanels h) h s
/-- SET_ZONE_CONFIG (R147) -/
def execSetZoneConfig (h : Hdr) (z : ZoneArgs) (s : State) : Result := request (.setZoneConfig h z) h s
/-- READ_ZONE (R147) -/
def execReadZone (h : Hdr) (zone : Nat) (s : State) : Result := request (.readZone h zone) h s
/-- PLACE_CALL (R151) -/
def execPlaceCall (h : Hdr) (c : CallArgs) (s : State) : Result := request (.placeCall h c) h s
/-- RELEASE_CALL (R152) -/
def execReleaseCall (h : Hdr) (id seq : Nat) (s : State) : Result := request (.releaseCall h id seq) h s
/-- CANCEL_CALL (R152) -/
def execCancelCall (h : Hdr) (id seq : Nat) (s : State) : Result := request (.cancelCall h id seq) h s
/-- READ_CALL (R150) -/
def execReadCall (h : Hdr) (id : Nat) (s : State) : Result := request (.readCall h id) h s
/-- READ_QUEUE (R150) -/
def execReadQueue (h : Hdr) (s : State) : Result := request (.readQueue h) h s
/-- SET_CALL_PRESET (R159) -/
def execSetCallPreset (h : Hdr) (p : PresetArgs) (s : State) : Result := request (.setCallPreset h p) h s
/-- READ_CALL_PRESET (R159) -/
def execReadCallPreset (h : Hdr) (preset : Nat) (s : State) : Result := request (.readCallPreset h preset) h s
/-- SET_LINK (R166) -/
def execSetLink (h : Hdr) (slot eventId : Nat) (s : State) : Result := request (.setLink h slot eventId) h s
/-- READ_LINKS (R166) -/
def execReadLinks (h : Hdr) (s : State) : Result := request (.readLinks h) h s
/-- RAISE_EVENT (R167) -/
def execRaiseEvent (h : Hdr) (host : Nat) (s : State) : Result := request (.raiseEvent h host) h s
/-- SET_CONTACT_INPUT (R170) -/
def execSetContactInput (h : Hdr) (c : InputArgs) (s : State) : Result := request (.setContactInput h c) h s
/-- READ_CONTACTS (R170) -/
def execReadContacts (h : Hdr) (s : State) : Result := request (.readContacts h) h s
/-- SET_CONTACT_OUTPUTS (R171) -/
def execSetContactOutputs (h : Hdr) (mask levels : BitVec 16) (s : State) : Result := request (.setContactOutputs h mask levels) h s
/-- SET_OUTPUT_OWNER (R171) -/
def execSetOutputOwner (h : Hdr) (mask : BitVec 16) (owner : Nat) (s : State) : Result := request (.setOutputOwner h mask owner) h s
/-- SET_OUTPUT_FUNCTION (R172) -/
def execSetOutputFunction (h : Hdr) (fn : Nat) (trigger : Option Nat) (setMask clearMask : Option (BitVec 16)) (s : State) : Result :=
  request (.setOutputFunction h fn trigger setMask clearMask) h s
/-- SET_WATCH (R174) -/
def execSetWatch (h : Hdr) (w : WatchArgs) (s : State) : Result := request (.setWatch h w) h s
/-- READ_WATCH (R174) -/
def execReadWatch (h : Hdr) (watch : Nat) (s : State) : Result := request (.readWatch h watch) h s
/-- LOCK_SHOW (R177) -/
def execLockShow (h : Hdr) (s : State) : Result := request (.lockShow h) h s
/-- UNLOCK_SHOW (R177) -/
def execUnlockShow (h : Hdr) (s : State) : Result := request (.unlockShow h) h s
/-- SET_STOP_CONFIG (R180) -/
def execSetStopConfig (h : Hdr) (c : StopArgs) (s : State) : Result := request (.setStopConfig h c) h s
/-- READ_SHOW_STATE (R180) -/
def execReadShowState (h : Hdr) (s : State) : Result := request (.readShowState h) h s
/-- SHOW_STOP (R181) -/
def execShowStop (h : Hdr) (s : State) : Result := request (.showStop h) h s
/-- SHOW_RESUME (R183) -/
def execShowResume (h : Hdr) (s : State) : Result := request (.showResume h) h s
/-- PRESET_SHOW (R184) -/
def execPresetShow (h : Hdr) (s : State) : Result := request (.presetShow h) h s
/-- FETCH_NOTICES (R194) -/
def execFetchNotices (h : Hdr) (s : State) : Result := request (.fetchNotices h) h s
/-- READ_NOTICES (R194) -/
def execReadNotices (h : Hdr) (s : State) : Result := request (.readNotices h) h s
/-- SET_NOTICE_NODE (R193) -/
def execSetNoticeNode (h : Hdr) (node : Nat) (enable : Option Bool) (mask : Option (BitVec 32)) (s : State) : Result :=
  request (.setNoticeNode h node enable mask) h s
/-- READ_IDENTITY (R196) -/
def execReadIdentity (h : Hdr) (s : State) : Result := request (.readIdentity h) h s

end Sys2Proof.Machine
end

