-- ==== Sys2Proof/Machine/Dispatch.lean ====
section
/-! DEFINITION. The meaning of each command: one arm per row of spec/opcode_table.json. -/

namespace Sys2Proof.Machine

/-- A command's effect on everything but the queue. -/
def exec (i : Instr) (s : State) : Host.Outcome State Fault Refusal :=
  match i with
  | .coldReset => Sys2Proof.Machine.execColdReset s
  | .startUpComplete sizeLog => Sys2Proof.Machine.execStartUpComplete sizeLog s
  | .writeRequest port bytes => Sys2Proof.Machine.execWriteRequest port bytes s
  | .readReply port clocked => Sys2Proof.Machine.execReadReply port clocked s
  | .unknownSelector port clocked => Sys2Proof.Machine.execUnknownSelector port clocked s
  | .unknownRequest h kind => Sys2Proof.Machine.execUnknownRequest h kind s
  | .postRoute h r => Sys2Proof.Machine.execPostRoute h r s
  | .amendRoute h r => Sys2Proof.Machine.execAmendRoute h r s
  | .lookupRoute h src dst => Sys2Proof.Machine.execLookupRoute h src dst s
  | .readRoute h handle => Sys2Proof.Machine.execReadRoute h handle s
  | .listRoutes h dst start => Sys2Proof.Machine.execListRoutes h dst start s
  | .setSourceTrim h src trim => Sys2Proof.Machine.execSetSourceTrim h src trim s
  | .setMaster h dst level set => Sys2Proof.Machine.execSetMaster h dst level set s
  | .setStatusControls h set clamp round mask => Sys2Proof.Machine.execSetStatusControls h set clamp round mask s
  | .readStatus h set => Sys2Proof.Machine.execReadStatus h set s
  | .clearStatus h set mask => Sys2Proof.Machine.execClearStatus h set mask s
  | .readMeters h first count => Sys2Proof.Machine.execReadMeters h first count s
  | .readLevels h => Sys2Proof.Machine.execReadLevels h s
  | .retireRoute h route dur curve => Sys2Proof.Machine.execRetireRoute h route dur curve s
  | .retireGroup h owner dst dur curve => Sys2Proof.Machine.execRetireGroup h owner dst dur curve s
  | .setRetireWindow h window => Sys2Proof.Machine.execSetRetireWindow h window s
  | .readBatch h id => Sys2Proof.Machine.execReadBatch h id s
  | .postCue h c => Sys2Proof.Machine.execPostCue h c s
  | .replaceCue h c => Sys2Proof.Machine.execReplaceCue h c s
  | .retireCue h list number => Sys2Proof.Machine.execRetireCue h list number s
  | .readCue h list number atOrAfter => Sys2Proof.Machine.execReadCue h list number atOrAfter s
  | .setStandby h list number => Sys2Proof.Machine.execSetStandby h list number s
  | .setListConfig h list guard promptGo => Sys2Proof.Machine.execSetListConfig h list guard promptGo s
  | .readList h list => Sys2Proof.Machine.execReadList h list s
  | .go h list => Sys2Proof.Machine.execGo h list s
  | .setCondition h cond value => Sys2Proof.Machine.execSetCondition h cond value s
  | .setConditionPreset h cond value => Sys2Proof.Machine.execSetConditionPreset h cond value s
  | .readConditions h => Sys2Proof.Machine.execReadConditions h s
  | .setConditionLink h link eventId cond value => Sys2Proof.Machine.execSetConditionLink h link eventId cond value s
  | .postClip h c => Sys2Proof.Machine.execPostClip h c s
  | .retireClip h id => Sys2Proof.Machine.execRetireClip h id s
  | .readClip h id => Sys2Proof.Machine.execReadClip h id s
  | .writeSamples h addr words => Sys2Proof.Machine.execWriteSamples h addr words s
  | .transferComplete => Sys2Proof.Machine.execTransferComplete s
  | .setPauseRamp h ramp => Sys2Proof.Machine.execSetPauseRamp h ramp s
  | .readVoice h voice => Sys2Proof.Machine.execReadVoice h voice s
  | .voiceStart voice => Sys2Proof.Machine.execVoiceStart voice s
  | .voiceEnd voice => Sys2Proof.Machine.execVoiceEnd voice s
  | .voiceFadeComplete voice => Sys2Proof.Machine.execVoiceFadeComplete voice s
  | .pauseRampEnd voice => Sys2Proof.Machine.execPauseRampEnd voice s
  | .pauseRampUpEnd voice => Sys2Proof.Machine.execPauseRampUpEnd voice s
  | .samplePeriod lanes => Sys2Proof.Machine.execSamplePeriod lanes s
  | .frameBoundary => Sys2Proof.Machine.execFrameBoundary s
  | .baseFadeComplete handle => Sys2Proof.Machine.execBaseFadeComplete handle s
  | .duckFadeComplete handle => Sys2Proof.Machine.execDuckFadeComplete handle s
  | .windowExpiry batch => Sys2Proof.Machine.execWindowExpiry batch s
  | .batchComplete batch => Sys2Proof.Machine.execBatchComplete batch s
  | .triggerDue list => Sys2Proof.Machine.execTriggerDue list s
  | .meterWindow => Sys2Proof.Machine.execMeterWindow s
  | .timerPeriod timer => Sys2Proof.Machine.execTimerPeriod timer s
  | .callExpired slot => Sys2Proof.Machine.execCallExpired slot s
  | .contactChange line level => Sys2Proof.Machine.execContactChange line level s
  | .contactSettle line => Sys2Proof.Machine.execContactSettle line s
  | .keyChange level => Sys2Proof.Machine.execKeyChange level s
  | .setMixConfig h m => Sys2Proof.Machine.execSetMixConfig h m s
  | .setFoldbackBase h f => Sys2Proof.Machine.execSetFoldbackBase h f s
  | .setFoldbackBaseRemove h f => Sys2Proof.Machine.execSetFoldbackBaseRemove h f s
  | .readMix h mix => Sys2Proof.Machine.execReadMix h mix s
  | .enrolPanel h addr mix => Sys2Proof.Machine.execEnrolPanel h addr mix s
  | .withdrawPanel h addr => Sys2Proof.Machine.execWithdrawPanel h addr s
  | .readPanels h => Sys2Proof.Machine.execReadPanels h s
  | .pollSlot => Sys2Proof.Machine.execPollSlot s
  | .pollUnanswered addr => Sys2Proof.Machine.execPollUnanswered addr s
  | .panelLost addr => Sys2Proof.Machine.execPanelLost addr s
  | .panelAnswer bytes => Sys2Proof.Machine.execPanelAnswer bytes s
  | .ident addr seq unit rev => Sys2Proof.Machine.execIdent addr seq unit rev s
  | .nudge addr seq mix src step => Sys2Proof.Machine.execNudge addr seq mix src step s
  | .setTrim addr seq mix src trim => Sys2Proof.Machine.execSetTrim addr seq mix src trim s
  | .mute addr seq mix src on => Sys2Proof.Machine.execMute addr seq mix src on s
  | .recall addr seq mix => Sys2Proof.Machine.execRecall addr seq mix s
  | .readMixPanel addr seq mix => Sys2Proof.Machine.execReadMixPanel addr seq mix s
  | .setZoneConfig h z => Sys2Proof.Machine.execSetZoneConfig h z s
  | .readZone h zone => Sys2Proof.Machine.execReadZone h zone s
  | .placeCall h c => Sys2Proof.Machine.execPlaceCall h c s
  | .releaseCall h id seq => Sys2Proof.Machine.execReleaseCall h id seq s
  | .cancelCall h id seq => Sys2Proof.Machine.execCancelCall h id seq s
  | .readCall h id => Sys2Proof.Machine.execReadCall h id s
  | .readQueue h => Sys2Proof.Machine.execReadQueue h s
  | .setCallPreset h p => Sys2Proof.Machine.execSetCallPreset h p s
  | .readCallPreset h preset => Sys2Proof.Machine.execReadCallPreset h preset s
  | .setLink h slot eventId => Sys2Proof.Machine.execSetLink h slot eventId s
  | .readLinks h => Sys2Proof.Machine.execReadLinks h s
  | .raiseEvent h host => Sys2Proof.Machine.execRaiseEvent h host s
  | .goLink list => Sys2Proof.Machine.execGoLink list s
  | .eventTriggerArrival list => Sys2Proof.Machine.execEventTriggerArrival list s
  | .outputFunction fn => Sys2Proof.Machine.execOutputFunction fn s
  | .watchEvaluation watch => Sys2Proof.Machine.execWatchEvaluation watch s
  | .presetPlaceLink preset => Sys2Proof.Machine.execPresetPlaceLink preset s
  | .presetReleaseLink preset => Sys2Proof.Machine.execPresetReleaseLink preset s
  | .conditionLink link => Sys2Proof.Machine.execConditionLink link s
  | .stopLink => Sys2Proof.Machine.execStopLink s
  | .resumeLink => Sys2Proof.Machine.execResumeLink s
  | .setContactInput h c => Sys2Proof.Machine.execSetContactInput h c s
  | .readContacts h => Sys2Proof.Machine.execReadContacts h s
  | .setContactOutputs h mask levels => Sys2Proof.Machine.execSetContactOutputs h mask levels s
  | .setOutputOwner h mask owner => Sys2Proof.Machine.execSetOutputOwner h mask owner s
  | .setOutputFunction h fn trigger setMask clearMask => Sys2Proof.Machine.execSetOutputFunction h fn trigger setMask clearMask s
  | .setWatch h w => Sys2Proof.Machine.execSetWatch h w s
  | .readWatch h watch => Sys2Proof.Machine.execReadWatch h watch s
  | .lockShow h => Sys2Proof.Machine.execLockShow h s
  | .unlockShow h => Sys2Proof.Machine.execUnlockShow h s
  | .setStopConfig h c => Sys2Proof.Machine.execSetStopConfig h c s
  | .readShowState h => Sys2Proof.Machine.execReadShowState h s
  | .showStop h => Sys2Proof.Machine.execShowStop h s
  | .showResume h => Sys2Proof.Machine.execShowResume h s
  | .presetShow h => Sys2Proof.Machine.execPresetShow h s
  | .fetchNotices h => Sys2Proof.Machine.execFetchNotices h s
  | .readNotices h => Sys2Proof.Machine.execReadNotices h s
  | .setNoticeNode h node enable mask => Sys2Proof.Machine.execSetNoticeNode h node enable mask s
  | .readIdentity h => Sys2Proof.Machine.execReadIdentity h s

end Sys2Proof.Machine
end

