-- ==== Sys2Proof/WellFormed.lean ====
section
/-! DEFINITION. Which commands a sender can give: operands within the widths of their fields (12.1), lists within their count bytes, and units
that the part has. Values that a rule refuses or clamps are well-formed: the refusal is the command's effect. -/

namespace Sys2Proof

/-- A one-byte number (12.1). -/
def byteOk (n : Nat) : Bool := n < 256
/-- A two-byte number. -/
def wordOk (n : Nat) : Bool := n < 65536
/-- A four-byte number. -/
def quadOk (n : Nat) : Bool := n < 4294967296
/-- A two-byte signed value. -/
def shortOk (v : Int) : Bool := decide (-32768 ≤ v) && decide (v < 32768)
/-- A level field: two bytes signed, 0x8000 being OFF. -/
def levelOk : Level → Bool
  | .off => true
  | .step v => decide (-32768 < v) && decide (v < 32768)
/-- An item that may be omitted. -/
def optOk {α : Type} (p : α → Bool) : Option α → Bool
  | none => true
  | some x => p x

def FadeArg.wf (f : FadeArg) : Bool := quadOk f.dur && byteOk f.curve
def RouteRef.wf : RouteRef → Bool
  | .key src dst => byteOk src && byteOk dst
  | .handle h gen => wordOk h && wordOk gen
def PostArgs.wf (r : PostArgs) : Bool := byteOk r.src && byteOk r.dst && levelOk r.level && optOk FadeArg.wf r.fade && optOk byteOk r.set
def AmendArgs.wf (r : AmendArgs) : Bool := r.route.wf && optOk levelOk r.level && optOk FadeArg.wf r.fade && optOk byteOk r.set
def CallArgs.wf (c : CallArgs) : Bool := byteOk c.kind && wordOk c.unit && byteOk c.priority && shortOk c.duck && quadOk c.maxWait
def SrcArg.wf : SrcArg → Bool
  | .num n => byteOk n
  | .label l => byteOk l
def StopTarget.wf : StopTarget → Bool
  | .clip c => wordOk c
  | .all => true
  | .other t => byteOk t
def TestRel.wf : TestRel → Bool
  | .meterGe src thr => byteOk src && shortOk thr
  | .meterLt src thr => byteOk src && shortOk thr
  | .condAnd a b => byteOk a && byteOk b
  | .condOr a b => byteOk a && byteOk b
  | .contact l => byteOk l
  | .other n => byteOk n
def ActionKind.wf : ActionKind → Bool
  | .route src dst level fade set _ => src.wf && byteOk dst && levelOk level && optOk FadeArg.wf fade && optOk byteOk set
  | .retire t f => FadeArg.wf f && (match t with
    | .key a b => byteOk a && byteOk b
    | .dest d => byteOk d
    | .all => true
    | .other n => byteOk n)
  | .play label clip offset mode level fadeIn => byteOk label && wordOk clip && quadOk offset && byteOk mode && shortOk level && quadOk fadeIn
  | .stop t d => t.wf && quadOk d
  | .exit t => t.wf
  | .fbBase mix src level fade _ _ => byteOk mix && byteOk src && levelOk level && optOk FadeArg.wf fade
  | .call t => (match t with
    | .preset p => byteOk p
    | .inline c => c.wf
    | .other n => byteOk n)
  | .test rel form ca cb => rel.wf && byteOk form && byteOk ca && byteOk cb
  | .check set _ form ca cb => byteOk set && byteOk form && byteOk ca && byteOk cb
  | .setc c _ => byteOk c
  | .clears set _ => byteOk set
  | .outputs _ _ => true
  | .event h => byteOk h
  | .other n => byteOk n
def Action.wf (a : Action) : Bool := byteOk a.qual && a.kind.wf
/-- A cue with at most the 42 actions a payload of 1024 bytes holds (12.3). -/
def CueArgs.wf (c : CueArgs) : Bool :=
  byteOk c.list && quadOk c.number && byteOk c.trigger && wordOk c.eventId && quadOk c.delay && byteOk c.qual && byteOk c.hint
    && decide (c.actions.length ≤ 42) && c.actions.all Action.wf
def ClipArgs.wf (c : ClipArgs) : Bool :=
  wordOk c.id && quadOk c.addr && quadOk c.len && optOk (fun p => quadOk p.1 && quadOk p.2) c.loop && shortOk c.trim
def MixArgs.wf (m : MixArgs) : Bool :=
  byteOk m.mix && optOk shortOk m.ceiling && optOk shortOk m.trimMin && optOk shortOk m.trimMax
    && optOk (fun l => decide (l.length < 256) && l.all byteOk) m.adjustable && optOk byteOk m.loss
def FbArgs.wf (f : FbArgs) : Bool := byteOk f.mix && byteOk f.src && levelOk f.level && optOk FadeArg.wf f.fade
def ZoneArgs.wf (z : ZoneArgs) : Bool :=
  byteOk z.zone && optOk shortOk z.relay && optOk FadeArg.wf z.fade && optOk shortOk z.call && optOk quadOk z.attack && optOk quadOk z.release
    && optOk (optOk byteOk) z.lamp && optOk byteOk z.set
def PresetArgs.wf (p : PresetArgs) : Bool :=
  byteOk p.preset && optOk (fun k => byteOk k.1 && wordOk k.2) p.kind && optOk byteOk p.priority && optOk shortOk p.duck && optOk quadOk p.maxWait
    && optOk wordOk p.place && optOk wordOk p.release
def InputArgs.wf (c : InputArgs) : Bool := byteOk c.line && optOk quadOk c.settle && optOk (optOk byteOk) c.mirror
def WatchArgs.wf (w : WatchArgs) : Bool :=
  byteOk w.watch && byteOk w.kind && byteOk w.src && shortOk w.low && shortOk w.high && wordOk w.trigger && byteOk w.mode
    && optOk (fun p => byteOk p.1 && byteOk p.2) w.pair
def StopArgs.wf (c : StopArgs) : Bool := optOk byteOk c.src && optOk shortOk c.aud && optOk shortOk c.fold && optOk shortOk c.relay

/-- A command a sender of this part can give. -/
def Instr.wf : Instr → Bool
  | .coldReset => true
  | .startUpComplete k => decide (24 ≤ k) && decide (k ≤ 29)
  | .writeRequest _ _ => true
  | .readReply _ _ => true
  | .unknownSelector _ _ => true
  | .unknownRequest _ kind => wordOk kind
  | .postRoute _ r => r.wf
  | .amendRoute _ r => r.wf
  | .lookupRoute _ src dst => byteOk src && byteOk dst
  | .readRoute _ handle => wordOk handle
  | .listRoutes _ dst start => byteOk dst && optOk wordOk start
  | .setSourceTrim _ src trim => byteOk src && shortOk trim
  | .setMaster _ dst level set => byteOk dst && levelOk level && optOk byteOk set
  | .setStatusControls _ set clamp round _ => byteOk set && optOk byteOk clamp && optOk byteOk round
  | .readStatus _ set => byteOk set
  | .clearStatus _ set _ => byteOk set
  | .readMeters _ first count => byteOk first && wordOk count
  | .readLevels _ => true
  | .retireRoute _ route dur curve => route.wf && optOk quadOk dur && optOk byteOk curve
  | .retireGroup _ owner dst dur curve => byteOk owner && optOk byteOk dst && optOk quadOk dur && optOk byteOk curve
  | .setRetireWindow _ window => quadOk window
  | .readBatch _ id => byteOk id
  | .postCue _ c => c.wf
  | .replaceCue _ c => c.wf
  | .retireCue _ list number => byteOk list && quadOk number
  | .readCue _ list number _ => byteOk list && quadOk number
  | .setStandby _ list number => byteOk list && quadOk number
  | .setListConfig _ list guard _ => byteOk list && optOk quadOk guard
  | .readList _ list => byteOk list
  | .go _ list => byteOk list
  | .setCondition _ cond _ => byteOk cond
  | .setConditionPreset _ cond _ => byteOk cond
  | .readConditions _ => true
  | .setConditionLink _ link eventId cond _ => byteOk link && wordOk eventId && byteOk cond
  | .postClip _ c => c.wf
  | .retireClip _ id => wordOk id
  | .readClip _ id => wordOk id
  | .writeSamples _ addr words => quadOk addr && decide (words.length < 256)
  | .transferComplete => true
  | .setPauseRamp _ ramp => quadOk ramp
  | .readVoice _ voice => byteOk voice
  | .voiceStart voice => decide (voice < 32)
  | .voiceEnd voice => decide (voice < 32)
  | .voiceFadeComplete voice => decide (voice < 32)
  | .pauseRampEnd voice => decide (voice < 32)
  | .pauseRampUpEnd voice => decide (voice < 32)
  | .samplePeriod lanes => decide (lanes.length = 80)
  | .frameBoundary => true
  | .baseFadeComplete handle => decide (handle < 1024)
  | .duckFadeComplete handle => decide (handle < 1024)
  | .windowExpiry batch => decide (batch < 8)
  | .batchComplete batch => decide (batch < 8)
  | .triggerDue list => decide (list < 4)
  | .meterWindow => true
  | .timerPeriod timer => decide (timer < 4)
  | .callExpired slot => decide (slot < 16)
  | .contactChange line _ => decide (line < 16)
  | .contactSettle line => decide (line < 16)
  | .keyChange _ => true
  | .setMixConfig _ m => m.wf
  | .setFoldbackBase _ f => f.wf
  | .setFoldbackBaseRemove _ f => f.wf
  | .readMix _ mix => byteOk mix
  | .enrolPanel _ addr mix => byteOk addr && optOk byteOk mix
  | .withdrawPanel _ addr => byteOk addr
  | .readPanels _ => true
  | .pollSlot => true
  | .pollUnanswered addr => byteOk addr
  | .panelLost addr => byteOk addr
  | .panelAnswer _ => true
  | .ident addr seq unit rev => byteOk addr && byteOk seq && quadOk unit && byteOk rev
  | .nudge addr seq mix src step => byteOk addr && byteOk seq && byteOk mix && byteOk src && shortOk step
  | .setTrim addr seq mix src trim => byteOk addr && byteOk seq && byteOk mix && byteOk src && shortOk trim
  | .mute addr seq mix src _ => byteOk addr && byteOk seq && byteOk mix && byteOk src
  | .recall addr seq mix => byteOk addr && byteOk seq && byteOk mix
  | .readMixPanel addr seq mix => byteOk addr && byteOk seq && byteOk mix
  | .setZoneConfig _ z => z.wf
  | .readZone _ zone => byteOk zone
  | .placeCall _ c => c.wf
  | .releaseCall _ id seq => byteOk id && wordOk seq
  | .cancelCall _ id seq => byteOk id && wordOk seq
  | .readCall _ id => byteOk id
  | .readQueue _ => true
  | .setCallPreset _ p => p.wf
  | .readCallPreset _ preset => byteOk preset
  | .setLink _ slot eventId => byteOk slot && wordOk eventId
  | .readLinks _ => true
  | .raiseEvent _ host => byteOk host
  | .goLink list => decide (list < 4)
  | .eventTriggerArrival list => decide (list < 4)
  | .outputFunction fn => decide (fn < 8)
  | .watchEvaluation watch => decide (watch < 16)
  | .presetPlaceLink preset => decide (preset < 8)
  | .presetReleaseLink preset => decide (preset < 8)
  | .conditionLink link => decide (link < 8)
  | .stopLink => true
  | .resumeLink => true
  | .setContactInput _ c => c.wf
  | .readContacts _ => true
  | .setContactOutputs _ _ _ => true
  | .setOutputOwner _ _ owner => byteOk owner
  | .setOutputFunction _ fn trigger _ _ => byteOk fn && optOk wordOk trigger
  | .setWatch _ w => w.wf
  | .readWatch _ watch => byteOk watch
  | .lockShow _ => true
  | .unlockShow _ => true
  | .setStopConfig _ c => c.wf
  | .readShowState _ => true
  | .showStop _ => true
  | .showResume _ => true
  | .presetShow _ => true
  | .fetchNotices _ => true
  | .readNotices _ => true
  | .setNoticeNode _ node _ _ => byteOk node
  | .readIdentity _ => true

/-- The header of a command that is a request (TABLE 11-2). -/
def Instr.header : Instr → Option Hdr
  | .coldReset => none
  | .startUpComplete _ => none
  | .writeRequest _ _ => none
  | .readReply _ _ => none
  | .unknownSelector _ _ => none
  | .unknownRequest h _ => some h
  | .postRoute h _ => some h
  | .amendRoute h _ => some h
  | .lookupRoute h _ _ => some h
  | .readRoute h _ => some h
  | .listRoutes h _ _ => some h
  | .setSourceTrim h _ _ => some h
  | .setMaster h _ _ _ => some h
  | .setStatusControls h _ _ _ _ => some h
  | .readStatus h _ => some h
  | .clearStatus h _ _ => some h
  | .readMeters h _ _ => some h
  | .readLevels h => some h
  | .retireRoute h _ _ _ => some h
  | .retireGroup h _ _ _ _ => some h
  | .setRetireWindow h _ => some h
  | .readBatch h _ => some h
  | .postCue h _ => some h
  | .replaceCue h _ => some h
  | .retireCue h _ _ => some h
  | .readCue h _ _ _ => some h
  | .setStandby h _ _ => some h
  | .setListConfig h _ _ _ => some h
  | .readList h _ => some h
  | .go h _ => some h
  | .setCondition h _ _ => some h
  | .setConditionPreset h _ _ => some h
  | .readConditions h => some h
  | .setConditionLink h _ _ _ _ => some h
  | .postClip h _ => some h
  | .retireClip h _ => some h
  | .readClip h _ => some h
  | .writeSamples h _ _ => some h
  | .transferComplete => none
  | .setPauseRamp h _ => some h
  | .readVoice h _ => some h
  | .voiceStart _ => none
  | .voiceEnd _ => none
  | .voiceFadeComplete _ => none
  | .pauseRampEnd _ => none
  | .pauseRampUpEnd _ => none
  | .samplePeriod _ => none
  | .frameBoundary => none
  | .baseFadeComplete _ => none
  | .duckFadeComplete _ => none
  | .windowExpiry _ => none
  | .batchComplete _ => none
  | .triggerDue _ => none
  | .meterWindow => none
  | .timerPeriod _ => none
  | .callExpired _ => none
  | .contactChange _ _ => none
  | .contactSettle _ => none
  | .keyChange _ => none
  | .setMixConfig h _ => some h
  | .setFoldbackBase h _ => some h
  | .setFoldbackBaseRemove h _ => some h
  | .readMix h _ => some h
  | .enrolPanel h _ _ => some h
  | .withdrawPanel h _ => some h
  | .readPanels h => some h
  | .pollSlot => none
  | .pollUnanswered _ => none
  | .panelLost _ => none
  | .panelAnswer _ => none
  | .ident _ _ _ _ => none
  | .nudge _ _ _ _ _ => none
  | .setTrim _ _ _ _ _ => none
  | .mute _ _ _ _ _ => none
  | .recall _ _ _ => none
  | .readMixPanel _ _ _ => none
  | .setZoneConfig h _ => some h
  | .readZone h _ => some h
  | .placeCall h _ => some h
  | .releaseCall h _ _ => some h
  | .cancelCall h _ _ => some h
  | .readCall h _ => some h
  | .readQueue h => some h
  | .setCallPreset h _ => some h
  | .readCallPreset h _ => some h
  | .setLink h _ _ => some h
  | .readLinks h => some h
  | .raiseEvent h _ => some h
  | .goLink _ => none
  | .eventTriggerArrival _ => none
  | .outputFunction _ => none
  | .watchEvaluation _ => none
  | .presetPlaceLink _ => none
  | .presetReleaseLink _ => none
  | .conditionLink _ => none
  | .stopLink => none
  | .resumeLink => none
  | .setContactInput h _ => some h
  | .readContacts h => some h
  | .setContactOutputs h _ _ => some h
  | .setOutputOwner h _ _ => some h
  | .setOutputFunction h _ _ _ _ => some h
  | .setWatch h _ => some h
  | .readWatch h _ => some h
  | .lockShow h => some h
  | .unlockShow h => some h
  | .setStopConfig h _ => some h
  | .readShowState h => some h
  | .showStop h => some h
  | .showResume h => some h
  | .presetShow h => some h
  | .fetchNotices h => some h
  | .readNotices h => some h
  | .setNoticeNode h _ _ _ => some h
  | .readIdentity h => some h

end Sys2Proof
end

