-- ==== Sys2Proof/Safety.lean ====
section
/-! DEFINITION. The terms claims are made in: a request that acts now, the state it acts on, events awaiting a consumer, steps that go on,
what each read reports, and the invariants. -/

namespace Sys2Proof.Machine

/-- A request that arrives at the port of `h` in state `s` is taken at once, and acts on `t` (R190, log 3): the port may take a request and none
waits. -/
def Taken (h : Hdr) (s t : State) : Prop := canTake s h.port = true ∧ (portOf s h.port).requests = [] ∧ t = begin 1 s

/-- Consumer `k` has event `e` to take in `s` (R165), and acts on `t`. -/
def Delivered (k : Consumer) (e : InFlight) (s t : State) : Prop :=
  nextFor s k (awaited s) (unended s) = some e ∧
    t = { begin (e.depth + 1) s with ef := { (begin (e.depth + 1) s).ef with events := markDone k e (begin (e.depth + 1) s).ef.events } }

/-- The command goes on. -/
def GoesOn (i : Instr) (s : State) : Prop := ∃ t, exec i s = .next t

/-- The WriteSamples requests taken and not yet answered: held by the arbiter, or being transferred (R113). -/
def writesInFlight (p : SamplePort) : Nat :=
  p.write.isSome.toNat + (match p.transfer with | some (.write _) => 1 | _ => 0)

/-- R189, R190: at most eight requests wait at port `p`, each its own, and none that it may take. -/
structure Waits (p : Port) (s : State) : Prop where
  places : (portOf s p).requests.length ≤ 8
  own : ∀ i ∈ (portOf s p).requests, ∃ h, i.header = some h ∧ h.port = p
  taken : canTake s p = true → (portOf s p).requests = []
  ready : s.ready = false → (portOf s p).requests = []

/-- R189, R190, TABLE 0-1: both ports' requests wait in order; no reply queue holds more than 8, the place of a WriteSamples in flight counted; one
is in flight exactly while port A answers one, and port B answers none. -/
structure QueuesBounded (s : State) : Prop where
  a : Waits .a s
  b : Waits .b s
  repliesA : s.portA.replies.length + writesInFlight s.smp ≤ 8
  repliesB : s.portB.replies.length ≤ 8
  progressA : writesInFlight s.smp = s.portA.inProgress.isSome.toNat
  progressB : s.portB.inProgress = none

/-- The tables of the route table rise. -/
structure RouteTable.Ordered (x : RouteTable) : Prop where
  routes : x.routes.rising = true
  gens : x.gens.rising = true

/-- The tables of the level engine rise. -/
structure LevelEngine.Ordered (x : LevelEngine) : Prop where
  trims : x.trims.rising = true
  masters : x.masters.rising = true
  dstSets : x.dstSets.rising = true
  sets : x.sets.rising = true
  meters : x.meters.rising = true
  peaks : x.peaks.rising = true
  crosspoints : x.crosspoints.rising = true
  overDsts : x.overDsts.rising = true

/-- The tables of the cue sequencer rise. -/
structure CueSequencer.Ordered (x : CueSequencer) : Prop where
  cues : x.cues.rising = true
  lists : x.lists.rising = true

/-- The tables of the condition file rise. -/
structure ConditionFile.Ordered (x : ConditionFile) : Prop where
  values : x.values.rising = true
  presets : x.presets.rising = true
  links : x.links.rising = true

/-- The tables of the voice engine rise. -/
structure VoiceEngine.Ordered (x : VoiceEngine) : Prop where
  clips : x.clips.rising = true
  voices : x.voices.rising = true

/-- The tables of the sample memory port rise. -/
structure SamplePort.Ordered (x : SamplePort) : Prop where
  requests : x.requests.rising = true
  pointers : x.pointers.rising = true

/-- The tables of the foldback manager and the panel link rise. -/
structure Foldback.Ordered (x : Foldback) : Prop where
  mixes : x.mixes.rising = true
  panels : x.panels.rising = true

/-- The tables of the relay controller rise. -/
structure Relay.Ordered (x : Relay) : Prop where
  zones : x.zones.rising = true
  calls : x.calls.rising = true
  presets : x.presets.rising = true

/-- The tables of the event fabric rise. -/
structure EventFabric.Ordered (x : EventFabric) : Prop where
  goLinks : x.goLinks.rising = true
  fns : x.fns.rising = true
  inputs : x.inputs.rising = true
  outputs : x.outputs.rising = true
  timers : x.timers.rising = true
  watches : x.watches.rising = true

/-- The tables of the notice table rise. -/
structure NoticeTable.Ordered (x : NoticeTable) : Prop where
  kinds : x.kinds.rising = true
  nodes : x.nodes.rising = true

/-- Every table of the state lists each number once, rising. -/
structure RecordsOrdered (s : State) : Prop where
  rt : s.rt.Ordered
  le : s.le.Ordered
  ru : s.ru.batches.rising = true
  cq : s.cq.Ordered
  cf : s.cf.Ordered
  ve : s.ve.Ordered
  smp : s.smp.Ordered
  fb : s.fb.Ordered
  rl : s.rl.Ordered
  ef : s.ef.Ordered
  nt : s.nt.Ordered

/-- The state with everything blanked that a GO, a delivery, a scan or a completion may change: routes, batches, lists and outcomes, condition
values, voices, the arbiter, zones and calls, status sets, line levels, events in flight and notices. Two states with the same settings
agree on the rest: ports, trims, masters, meters, crosspoints, clips, sample memory, mixes, panels, links, inputs, timers, watches, lock,
stop and stop configuration, notice nodes. -/
def settings (s : State) : State :=
  { s with
    rt := ⟨[], []⟩, le := { s.le with sets := [] }, ru := { s.ru with batches := [] }, cq := ⟨[], []⟩, cf := { s.cf with values := [] }
    ve := { s.ve with voices := [], waits := [] }
    smp := { s.smp with requests := [], write := none, transfer := none, pointers := [] }
    rl := ⟨[], [], [], 0, []⟩
    ef := { s.ef with outputs := [], events := [], causes := 0, cause := 0, boundary := 0, depth := 0 }
    nt := { s.nt with kinds := [] } }

/-- The sample memory is in its canonical form. -/
def MemoryCanonical (s : State) : Prop := s.smp.memory.wf = true

/-- One step is safe: it neither faults nor refuses. -/
def SafeStep (s : State) : Prop := ∃ t, step s = .next t

/-- Every command waiting is well-formed. -/
def OrderlyQueue (s : State) : Prop := s.pending.all Instr.wf = true

/-! ## Classes of requests -/

/-- The requests only port A may issue (TABLE 11-2). -/
def deskOnly : Instr → Bool
  | .postRoute _ _ | .amendRoute _ _ | .setSourceTrim _ _ _ | .setMaster _ _ _ _ | .setStatusControls _ _ _ _ _ | .clearStatus _ _ _
  | .retireRoute _ _ _ _ | .retireGroup _ _ _ _ _ | .setRetireWindow _ _ | .postCue _ _ | .replaceCue _ _ | .retireCue _ _ _
  | .setStandby _ _ _ | .setListConfig _ _ _ _ | .setConditionPreset _ _ _ | .setConditionLink _ _ _ _ _ | .postClip _ _ | .retireClip _ _
  | .writeSamples _ _ _ | .setPauseRamp _ _ | .setMixConfig _ _ | .setFoldbackBase _ _ | .setFoldbackBaseRemove _ _ | .enrolPanel _ _ _
  | .withdrawPanel _ _ | .setZoneConfig _ _ | .setCallPreset _ _ | .setLink _ _ _ | .setContactInput _ _ | .setContactOutputs _ _ _
  | .setOutputOwner _ _ _ | .setOutputFunction _ _ _ _ _ | .setWatch _ _ | .lockShow _ | .unlockShow _ | .setStopConfig _ _ | .presetShow _
  | .fetchNotices _ | .setNoticeNode _ _ _ _ => true
  | _ => false

/-- The requests that only read (TABLE 11-1, last row). -/
def readsOnly : Instr → Bool
  | .lookupRoute _ _ _ | .readRoute _ _ | .listRoutes _ _ _ | .readMeters _ _ _ | .readLevels _ | .readStatus _ _ | .readBatch _ _
  | .readCue _ _ _ _ | .readList _ _ | .readConditions _ | .readClip _ _ | .readVoice _ _ | .readMix _ _ | .readPanels _ | .readZone _ _
  | .readCall _ _ | .readQueue _ | .readCallPreset _ _ | .readLinks _ | .readContacts _ | .readWatch _ _ | .readShowState _ | .readNotices _
  | .readIdentity _ => true
  | _ => false

/-- A read names a record that exists, by numbers within their ranges. -/
def readable (s : State) : Instr → Prop
  | .lookupRoute _ src dst => srcOk src = true ∧ dstOk dst = true ∧ ∃ n, findKey s src dst = some n ∧ (routeAt s n).isSome = true
  | .readRoute _ n => n ≤ 1023 ∧ (routeAt s n).isSome = true
  | .listRoutes _ dst start => dstOk dst = true ∧ ∀ n ∈ start, n ≤ 1023
  | .readMeters _ first count => first ≤ 100 ∧ 1 ≤ count ∧ first + count ≤ 101
  | .readStatus _ n => n ≤ 3
  | .readBatch _ id => id ≤ 7
  | .readCue _ l n after =>
    l ≤ 3 ∧ n ≤ 999999 ∧ (if after then ∃ m, cueFrom s l n = some m ∧ (cueOf s l m).isSome = true else (cueOf s l n).isSome = true)
  | .readList _ l => l ≤ 3
  | .readClip _ id => id ≤ 511 ∧ (clipOf s id).isSome = true
  | .readVoice _ n => n ≤ 31
  | .readMix _ m => m ≤ 31
  | .readZone _ z => z ≤ 14
  | .readCall _ id => id ≤ 16 ∧ (callOf s id).isSome = true
  | .readCallPreset _ p => p ≤ 7
  | .readWatch _ w => w ≤ 15
  | _ => True

/-- The requests TABLE 10-2 guards, naming numbers that exist and no earlier refusal of their own: refused while the show is locked and the
key released (R178). -/
def guardedRequest (s : State) : Instr → Prop
  | .amendRoute _ q => ∃ n r, resolveRef s q.route = .ok n ∧ routeAt s n = some r ∧ badSet q.set = false ∧ badFade q.fade = false ∧
      notDesks r.owner = false ∧ (ownedByCue r.owner = true → q.adopt = true) ∧ r.prot = true
  | .postRoute _ q => srcOk q.src = true ∧ dstOk q.dst = true ∧ ¬(q.src = pgmt ∧ q.dst = pgm) ∧ badSet q.set = false ∧ badFade q.fade = false ∧
      ∃ n r, findKey s q.src q.dst = some n ∧ routeAt s n = some r ∧ notDesks r.owner = false ∧ (ownedByCue r.owner = true → q.adopt = true) ∧
        r.prot = true
  | .retireGroup _ o dst _ c => ∃ x, ownerOf o = some x ∧ notDesks x = false ∧ (∀ d ∈ dst, dstOk d = true) ∧ badCurve c = false ∧
      ∃ p ∈ groupOf s x dst, p.2.state = .live ∧ p.2.prot = true
  | .writeSamples _ a ws => 1 ≤ ws.length ∧ ws.length ≤ 254 ∧ a + ws.length ≤ s.smp.size ∧ overlapsProtected s a ws.length = true
  | .retireRoute _ q _ c => ∃ n r, resolveRef s q = .ok n ∧ routeAt s n = some r ∧ badCurve c = false ∧ notDesks r.owner = false ∧ r.prot = true
  | .replaceCue _ c => badCue c = false ∧ badActions c.actions = false ∧ ∃ old, cueOf s c.list c.number = some old ∧ old.prot = true ∧
      actionCount s - old.actions.length + c.actions.length ≤ Config.actions
  | .retireCue _ l n => l ≤ 3 ∧ n ≤ 999999 ∧ ∃ c, cueOf s l n = some c ∧ c.prot = true
  | .retireClip _ id => id ≤ 511 ∧ ∃ c, clipOf s id = some c ∧ c.prot = true
  | .postClip _ c => badClip c = false ∧ c.addr + c.len ≤ s.smp.size ∧ c.replace = true ∧ ∃ old, clipOf s c.id = some old ∧ old.prot = true
  | .setLink _ _ _ => True
  | .setConditionLink _ link _ c _ => link ≤ 7 ∧ c ≤ 31
  | .setCallPreset _ q => badPreset q = false
  | .setZoneConfig _ q => badZone q = false
  | .setMaster _ dst _ set => isFoldDst dst = true ∧ ∀ n ∈ set, n ≤ 3
  | .setMixConfig _ q => badMix q = false ∧ (s.ss.stopped = true → q.stopFeed = none) ∧ guardedChange q (mixOf s q.mix) = true
  | .setFoldbackBase _ q => badBase q = false ∧ q.src ≠ s.ss.stopSource ∧ ∃ n r, mixEntry s q.mix q.src = some (n, r) ∧ r.prot = true
  | .setFoldbackBaseRemove _ q => badBase q = false ∧ ∃ n r, mixEntry s q.mix q.src = some (n, r) ∧ r.prot = true
  | .setStatusControls _ _ _ _ _ => True
  | .setWatch _ w => badWatch w = false
  | .setContactInput _ q => q.line ≤ 15 ∧ ∀ m ∈ q.mirror, ∀ c ∈ m, c ≤ 31
  | .setOutputOwner _ _ _ => True
  | .setOutputFunction _ f _ _ _ => f ≤ 7
  | .setConditionPreset _ c _ => 1 ≤ c ∧ c ≤ 31
  | .setStopConfig _ q => badStop q = false ∧ s.ss.stopped = false
  | .presetShow _ => True
  | _ => False

/-! ## Records after a command -/

/-- What a call keeps for as long as it is in the queue. -/
def callFixed (c : Call) : Option Nat × CallKind × List Nat × Nat × Int × Nat × CallOrigin :=
  (c.seq, c.kind, c.zones, c.priority, c.duck, c.maxWait, c.origin)

/-- What a list keeps through everything but a GO, a change of standby and SetListConfig. -/
def fixedOf (q : CueList) : Option Nat × Nat × Nat × Bool × Option Nat := (q.standby, q.takes, q.guard, q.promptGo, q.sinceGo)

/-- Every route but the one in slot `n` stands as it did, every generation too, and the settings. -/
def OnlyRoute (n : Nat) (s t : State) : Prop :=
  (∀ m, m ≠ n → routeAt t m = routeAt s m) ∧ (∀ m, genOf t m = genOf s m) ∧ settings t = settings s

/-- A base level set over the current base level `now`, at once or by a fade from it (R18, R19). -/
def rebased (now level : Level) (fade : Option (Nat × Curve)) (origin : Origin) (starter : Option StartedBy) (r : Route) : Route :=
  match fade with
  | none => { r with base := level, fade := none }
  | some f => { r with base := .step (levelNum now), fade := some ⟨.step (levelNum now), level, f.1, 0, f.2, origin, starter⟩ }

/-- A base that a request gives, clamped (R17). -/
def basedOn (now : Level) (level : Level) (fade : Option FadeArg) (origin : Origin) (r : Route) : Route :=
  rebased now (clampLevel level) (fade.map (fun f => (min f.dur 600000, (curveOf f.curve).getD .linear))) origin none r

/-- A RETIRING record reclaimed at the level it had reached; a LIVE one as it stands (R20). -/
def reclaimedRoute (now : Level) (r : Route) : Route :=
  if r.state = .retiring then { r with state := .live, batch := none, base := now, fade := none } else r

/-- A record adopted by `o` (R21): the fade's origin becomes the adopter's, its started-by none. -/
def adoptedRoute (o : Owner) (r : Route) : Route :=
  { r with owner := o, fade := r.fade.map (fun f => { f with origin := originOf o, startedBy := none }) }

/-- What a ROUTE action of list `l` makes of a present record (R94). -/
def takenOver (l : Nat) (by' : StartedBy) (level : Level) (fade : Option FadeArg) (set : Option Nat) (prot : Option Bool) (r : Route) : Route :=
  let a := reclaimedRoute (currentBase r) r
  let b := if a.owner = .cue l then a else adoptedRoute (.cue l) a
  let c := rebased (currentBase r) level (fade.map fadeArg) (.cue l) (some by') b
  { c with set := set.getD c.set, prot := prot.getD c.prot }

/-- What AmendRoute, and PostRoute on a present key, make of a record whose current base level is `now` (R13). -/
def amendedRoute (now : Level) (level : Option Level) (fade : Option FadeArg) (set : Option Nat) (prot : Option Bool) (r : Route) : Route :=
  let a := reclaimedRoute now r
  let b := if ownedByCue r.owner then adoptedRoute .desk a else a
  let c := match level with
    | none => b
    | some l => basedOn now l fade .desk b
  { c with set := set.getD c.set, prot := prot.getD c.prot }

/-- R74: the guard of a list lets a GO by hand through. -/
def GuardPassed (q : CueList) : Prop := ∀ n ∈ q.sinceGo, q.guard ≤ n

/-- R84, R85: `u` is `s` with the running set `rs` in list `l`, and the completion test applied to take `k`: where both its counts are 0 and its GO
has ended, the record is gone, cue-complete is emitted, and a FOLLOW trigger awaiting it counts from 0. Nothing else changes. -/
def Tested (l k : Nat) (rs : List Running) (s u : State) : Prop :=
  (∀ m, m ≠ l → listOf u m = listOf s m) ∧
  u = { s with cq := { s.cq with lists := u.cq.lists }, ef := { s.ef with events := u.ef.events }, nt := { s.nt with kinds := u.nt.kinds } } ∧
  ((∃ r, rs.find? (fun r => r.take == k) = some r ∧ r.fades = 0 ∧ r.late = 0 ∧ r.taking = false) →
    listOf u l = { listOf s l with
      running := rs.filter (fun r => r.take ≠ k)
      trigger := (listOf s l).trigger.map (fun p =>
        if p.kind = .follow ∧ p.phase = .awaiting k then { p with phase := .counting 0, due := false } else p) } ∧
    (s.ef.depth < 5 → u.ef.events = s.ef.events ++ [⟨136 + l, s.ef.depth, s.ef.cause, []⟩] ∧ u.nt = s.nt)) ∧
  ((∀ r, rs.find? (fun r => r.take == k) = some r → r.fades ≠ 0 ∨ r.late ≠ 0 ∨ r.taking = true) →
    listOf u l = { listOf s l with running := rs } ∧ u.ef = s.ef ∧ u.nt = s.nt)

/-- R84: the account of take `g.take` counts `fades` more fades and `late` more late starts, and nothing else of the lists changes. -/
def Counted (g : GoContext) (fades late : Nat) (s u : State) : Prop :=
  u.cq.cues = s.cq.cues ∧ ∀ m, listOf u m = if m = g.list then { listOf s m with
    running := (listOf s m).running.map (fun r => if r.take = g.take then { r with fades := r.fades + fades, late := r.late + late } else r) }
    else listOf s m

/-- R126: voice `n`, standing as `v`, has become FREE: every route it carried is released, no request of it is held, and no other voice, route or
setting changed. -/
def VoiceFreed (n : Nat) (v : Voice) (s u : State) : Prop :=
  (∀ m, voiceOf u m = if m = n then { v with
    state := .free, claimant := none, buffer := [], fade := none, ramp := none, startDue := false, startAligned := false, exitAt := none
    fadeInBy := none, atEnd := false, starting := false, ending := false } else voiceOf s m) ∧
  (∀ m r, routeAt s m = some r → r.src = 64 + n → routeAt u m = none ∧ genOf u m = (genOf s m + 1) % 65536) ∧
  (∀ m r, routeAt s m = some r → r.src ≠ 64 + n → routeAt u m = some r ∧ genOf u m = genOf s m) ∧
  u.smp.requests.find n = none ∧ settings u = settings s

/-- R152, R157, R158: the relay controller after the call of slot `k` has left it, with nothing else changed: the slot is free, and a preset that
named it names none. -/
def CallRemoved (k : Nat) (s : State) (r : Relay) : Prop :=
  (∀ m, r.calls.find m = if m = k then none else callOf s m) ∧ r.order = s.rl.order.filter (fun x => x ≠ k) ∧ r.zones = s.rl.zones ∧
  r.seq = s.rl.seq ∧
  (s.rl.presets.rising = true → ∀ p, r.presets.read CallPreset.init p =
    if (callPresetOf s p).placed.any (fun x => x.1 == k) then { callPresetOf s p with placed := none } else callPresetOf s p)

/-- R157: call `c` of slot `k`, ACTIVE in `s`, has ended in `u`, with the scan still to come: its routes are released, its zones free, their
programme ducks released, their events emitted, and the call gone; every other call and record stands. -/
def CallEnded (k : Nat) (c : Call) (s u : State) : Prop :=
  CallRemoved k s { u.rl with zones := s.rl.zones } ∧
  (∀ z, zoneOf u z = if z ∈ c.zones then { zoneOf s z with holder := none } else zoneOf s z) ∧
  (∀ n r, routeAt s n = some r → r.src = callSource c → (∃ z ∈ c.routes, r.dst = 56 + z) →
    routeAt u n = none ∧ genOf u n = (genOf s n + 1) % 65536) ∧
  (∀ n r z, routeAt s n = some r → r.src = pgmt → r.dst = 56 + z → z ∈ c.zones →
    routeAt u n = some { r with duckFade := some ⟨r.duck, 0, (zoneOf s z).release, 0⟩ }) ∧
  (∀ n r, routeAt s n = some r → ¬(r.src = callSource c ∧ ∃ z ∈ c.routes, r.dst = 56 + z) → ¬(r.src = pgmt ∧ ∃ z ∈ c.zones, r.dst = 56 + z) →
    routeAt u n = some r) ∧
  ((∀ n r, routeAt s n = some r → r.src = callSource c → r.fade = none ∧ r.batch = none) → s.ef.depth < 5 →
    u.ef.events = s.ef.events ++ c.zones.map (fun z => InFlight.mk (160 + z) s.ef.depth s.ef.cause [])) ∧
  settings u = settings s

/-! ## Show stop and resume -/

/-- R182: a stop feeds destination `d`: every relay zone, the mixes with stop-feed, the auditorium destinations of the mask. -/
def stopFeeds (s : State) (d : Nat) : Bool :=
  if d < 24 then s.ss.audMask.getLsbD d else if d < 56 then (mixOf s (d - 24)).stopFeed else decide (d < 71)

/-- R182: the stop level of a destination's group. -/
def stopLevelOf (s : State) (d : Nat) : Int := if d < 24 then s.ss.audLevel else if d < 56 then s.ss.foldLevel else s.ss.relayLevel

/-- The claimant of a voice is the label of a running record. -/
def heldByTake (v : Voice) : Bool :=
  match v.claimant with
  | some (.running _ _ _) => true
  | _ => false

/-! ## Panels -/

/-- R138, R139, R144: the panel at `a`, polled in `s`, has sent request `q`, new to it, which the block answers `e`; `denied` where PANEL-DENIED is
raised. The panel is PRESENT, one that was LOST raises PANEL-BACK, and but for routes nothing else changes. -/
def PanelAnswered (a q : Nat) (e : PanelEnd) (denied : Bool) (identity : Option (Nat × Nat)) (s u : State) : Prop :=
  (∀ b, panelOf u b = if b = a then { panelOf s a with
    presence := .present, misses := 0, identity := identity, lastSeq := some q, lastReply := some ⟨q, e.code, e.adjusted, e.data⟩ } else panelOf s b) ∧
  (∀ k, noticeOf u k = if k = .panelBack ∧ (panelOf s a).presence = .lost then raisedNotice (.num a) (noticeOf s k)
    else if k = .panelDenied ∧ denied = true then raisedNotice (.num a) (noticeOf s k) else noticeOf s k) ∧
  u = { s with fb := { s.fb with polling := none, panels := u.fb.panels }, rt := { s.rt with routes := u.rt.routes }
               nt := { s.nt with kinds := u.nt.kinds } }

/-! ## What the reads report

The payloads of the requests that only read, item by item as their rules and Chapter 12 name them; the layout, where Chapter 12 gives it only by
sort, is the model's choice (log 19). -/

/-- A started-by: list and take number, zeros where absent. -/
def shownStarter (b : Option StartedBy) : List Field := [u1 ((b.map (·.list)).getD 0), u4 ((b.map (·.take)).getD 0)]

/-- R15, TABLE 12-3: the record in use in slot `n`; E and G are those of the last boundary, OFF and 0 where none has been since it was made. -/
def shownRoute (s : State) (n : Nat) (r : Route) : List Field :=
  let e := r.last.getD .off
  let by' := r.fade.bind (·.startedBy)
  let present := (if r.fade = none then 0 else 1) + (if r.duckFade = none then 0 else 2) + (if r.batch = none then 0 else 4) +
    (if r.last = none then 0 else 8) + (if by' = none then 0 else 16) + (if r.mute then 32 else 0) + (if r.prot then 64 else 0)
  [u2 n, u2 (genOf s n), u1 (if r.state = .live then 1 else 2), u1 r.src, u1 r.dst, u1 (ownerCode r.owner), u1 present, u1 r.set, lev r.base,
    s1 r.trim, u1 (r.batch.getD 0), s2 r.duck, (r.last.map lev).getD (u2 0), lev e, u3 (gainCode e)] ++
  (match r.fade with
    | none => [u1 0, u2 0, u2 0, u4 0, u4 0, u1 0]
    | some f => [u1 (curveCode f.curve), lev f.a, lev f.b, u4 f.dur, u4 f.n, u1 (originCode f.origin)]) ++
  shownStarter by' ++
  match r.duckFade with
    | none => [u2 0, u2 0, u4 0, u4 0]
    | some f => [s2 f.a, s2 f.b, u4 f.dur, u4 f.n]

/-- R15, 12.2: a FREE slot: its handle, its generation, and 50 zero bytes. -/
def shownFree (s : State) (n : Nat) : List Field := [u2 n, u2 (genOf s n)] ++ List.replicate 50 (u1 0)

/-- R61, TABLE 3-1: a batch in use, after the window setting in force. -/
def shownBatch (s : State) (b : Batch) : List Field :=
  [u4 s.ru.window, u1 (if b.suspended then 3 else if b.phase = .gathering then 1 else 2), u4 b.dur, u1 (curveCode b.curve),
    u1 (if b.cls = .cue then 0 else 1), u2 b.members.length] ++
  b.members.flatMap (fun m => [u2 m.handle, flag m.startedBy.isSome] ++ shownStarter m.startedBy) ++ [u4 b.window] ++
  (if b.suspended then [u1 (if b.phase = .gathering then 1 else 2), u4 (if b.phase = .gathering then b.count else b.n)]
    else if b.phase = .gathering then [u4 b.count] else [u4 b.n, u4 b.dur])

/-- The fade of an action; the duration 0xFFFFFFFF where it gives none (log 18). -/
def shownFade (f : Option FadeArg) : List Field := [u4 ((f.map (·.dur)).getD 0xFFFFFFFF), u1 ((f.map (·.curve)).getD 0)]

/-- What a call action or a call placed gives: kind, input or clip, zones, groups, priority, duck depth, max wait. -/
def shownCallArgs (c : CallArgs) : List Field :=
  [u1 c.kind, u2 c.unit, u2 c.zones.toNat, u1 c.groups.toNat, u1 c.priority, s2 c.duck, u4 c.maxWait]

/-- TABLE 12-4: an action's kind, 1 to 13, and its parameters. -/
def shownKind : ActionKind → Nat × List Field
  | .route (.num n) dst level fade set prot => (1, [u1 0, u1 n, u1 dst, lev level] ++ shownFade fade ++ [o1 set, o1 (prot.map Bool.toNat)])
  | .route (.label n) dst level fade set prot => (1, [u1 1, u1 n, u1 dst, lev level] ++ shownFade fade ++ [o1 set, o1 (prot.map Bool.toNat)])
  | .retire (.key src dst) f => (2, [u1 0, u1 src, u1 dst, u4 f.dur, u1 f.curve])
  | .retire (.dest d) f => (2, [u1 1, u1 0, u1 d, u4 f.dur, u1 f.curve])
  | .retire .all f => (2, [u1 2, u1 0, u1 0, u4 f.dur, u1 f.curve])
  | .retire (.other n) f => (2, [u1 n, u1 0, u1 0, u4 f.dur, u1 f.curve])
  | .play label clip offset mode level fadeIn => (3, [u1 label, u2 clip, u4 offset, u1 mode, s2 level, u4 fadeIn])
  | .stop (.clip c) d => (4, [u1 0, u2 c, u4 d])
  | .stop .all d => (4, [u1 1, u2 0, u4 d])
  | .stop (.other n) d => (4, [u1 n, u2 0, u4 d])
  | .exit (.clip c) => (5, [u1 0, u2 c])
  | .exit .all => (5, [u1 1, u2 0])
  | .exit (.other n) => (5, [u1 n, u2 0])
  | .fbBase mix src level fade rt rm =>
    (6, [u1 mix, u1 src, lev level] ++ shownFade fade ++ [u1 ((if rt then 1 else 0) + (if rm then 2 else 0))])
  | .call (.preset p) => (7, [u1 0, u1 p] ++ shownCallArgs ⟨0, 0, 0, 0, 0, 0, 0⟩)
  | .call (.inline c) => (7, [u1 1, u1 0] ++ shownCallArgs c)
  | .call (.other n) => (7, [u1 n, u1 0] ++ shownCallArgs ⟨0, 0, 0, 0, 0, 0, 0⟩)
  | .test (.meterGe src thr) form ca cb => (8, [u1 0, u1 form, u1 ca, u1 cb, u1 src, u1 0, s2 thr])
  | .test (.meterLt src thr) form ca cb => (8, [u1 1, u1 form, u1 ca, u1 cb, u1 src, u1 0, s2 thr])
  | .test (.condAnd a b) form ca cb => (8, [u1 2, u1 form, u1 ca, u1 cb, u1 a, u1 b, s2 0])
  | .test (.condOr a b) form ca cb => (8, [u1 3, u1 form, u1 ca, u1 cb, u1 a, u1 b, s2 0])
  | .test (.contact l) form ca cb => (8, [u1 4, u1 form, u1 ca, u1 cb, u1 l, u1 0, s2 0])
  | .test (.other n) form ca cb => (8, [u1 n, u1 form, u1 ca, u1 cb, u1 0, u1 0, s2 0])
  | .check set mask form ca cb => (9, [u1 set, u1 mask.toNat, u1 form, u1 ca, u1 cb])
  | .setc c v => (10, [u1 c, flag v])
  | .clears set mask => (11, [u1 set, u1 mask.toNat])
  | .outputs a b => (12, [u2 a.toNat, u2 b.toNat])
  | .event n => (13, [u1 n])
  | .other n => (n, [])

/-- 12.3: an action in 24 bytes: kind, qualifier, parameters, zeros, and the clamped-at-posting mark. -/
def shownAction (a : Action) : List Field :=
  let k := shownKind a.kind
  [u1 k.1, u1 a.qual] ++ k.2 ++ List.replicate (21 - (k.2.map (·.width)).sum) (u1 0) ++ [flag a.clamped]

/-- R67, 12.3: cue `n` of list `l`: its header, actions and outcome, the standby mark, and the take numbers of its running records. -/
def shownCue (s : State) (l n : Nat) (c : Cue) : List Field :=
  let takes := ((listOf s l).running.filter (fun r => r.number = n)).map (·.take)
  let trigger : Nat × Nat := match c.trigger with | .manual => (0, 0) | .follow => (1, 0) | .continue => (2, 0) | .event e => (3, e)
  [u1 l, u4 n, u1 trigger.1, u2 trigger.2, u4 c.delay, u1 c.qual, flag c.priority, flag c.prot, u1 c.actions.length] ++
  c.actions.flatMap shownAction ++
  (match c.outcome with
    | none => List.replicate 11 (u1 0)
    | some o => [u1 1, flag o.qualifier, o4 o.take, u1 o.done, u1 o.skipped, u1 o.failed, o1 (o.first.map codeByte),
        u1 ((if o.adjusted then 1 else 0) + (if o.late then 2 else 0))]) ++
  [flag (decide ((listOf s l).standby = some n)), u1 takes.length] ++ takes.map u4

/-- A voice's state by its place in TABLE 6-3 (log 47). -/
def shownState (v : Voice) : Field :=
  u1 (match v.state with | .free => 0 | .preloading => 1 | .primed => 2 | .playing => 3 | .stopping => 4 | .pausing => 5 | .paused => 6)

/-- R87, TABLE 4-2, TABLE 4-4: list `l`; the voices of the standby's labels in rising number (log 32), then its labels that wait. -/
def shownList (s : State) (l : Nat) : List Field :=
  let q := listOf s l
  let claimed : List (Nat × Nat) := (List.range 32).filterMap (fun v => match (voiceOf s v).claimant with
    | some (.standby i k x) => if i = l ∧ q.standby = some k then some (x, v) else none
    | _ => none)
  let waits := s.ve.waits.filter (fun w => w.list = l ∧ q.standby = some w.number)
  [u1 (match q.state with | .empty => 0 | .preloading => 1 | .primed => 2 | .ended => 3), o4 q.standby] ++
  (match q.trigger with
    | none => [u1 0]
    | some p =>
      let phase := match p.phase with | .awaiting k => [u1 0, u4 k, u4 0] | .counting c => [u1 1, u4 0, u4 c]
      match p.kind with
      | .follow => [u1 1, u1 0] ++ phase ++ [u4 p.delay, u1 0]
      | .continue => [u1 1, u1 1] ++ phase ++ [u4 p.delay, u1 0]
      | .event d => [u1 1, u1 2] ++ phase ++ [u4 p.delay, u1 d]) ++
  [u1 q.running.length] ++
  q.running.flatMap (fun r => [u4 r.number, u4 r.take, u2 r.fades, u2 r.late, u1 r.labels.length] ++ r.labels.flatMap (fun p => [u1 p.1, u1 p.2])) ++
  [u4 q.takes, u4 q.guard, flag q.promptGo, o4 q.sinceGo, u1 claimed.length] ++
  claimed.flatMap (fun p => [u1 p.1, u1 p.2, shownState (voiceOf s p.2)]) ++ [u1 waits.length] ++ waits.map (fun w => u1 w.label)

/-- R111, R112: clip `id`, and how many voices hold it. -/
def shownClip (s : State) (id : Nat) (c : Clip) : List Field :=
  let held := (List.range 32).filter (fun v => (voiceOf s v).state ≠ .free ∧ (voiceOf s v).clip = id)
  [u2 id, u4 c.addr, u4 c.len] ++ (match c.loop with | none => [u1 0, u4 0, u4 0] | some (a, e) => [u1 1, u4 a, u4 e]) ++
  [s2 c.trim, flag c.prot, u2 held.length]

/-- R117, TABLE 6-2: voice `n`, and the fill of its buffer. The level is the one it gives for the frame, its pause ramp applied (R124). -/
def shownVoice (s : State) (n : Nat) : List Field :=
  let v := voiceOf s n
  [u1 n, shownState v] ++
  (match v.claimant with
    | none => [u1 0, u1 0, u4 0, u1 0]
    | some (.standby l k x) => [u1 1, u1 l, u4 k, u1 x]
    | some (.running l k x) => [u1 2, u1 l, u4 k, u1 x]
    | some (.call c) => [u1 3, u1 c, u4 0, u1 0]) ++
  [u2 v.clip, u4 v.offset, u1 (match v.mode with | .once => 0 | .vamp => 1 | .cycle => 2),
    u1 (match v.phase with | .before => 0 | .inLoop => 1 | .tail => 2), flag v.exitPending, u1 v.cls,
    lev (match v.ramp, v.level with
      | none, x => x
      | some _, .off => .off
      | some p, .step x => if 0 < p.r ∧ p.dur ≤ p.r then .off else .step (x + ((-1024 - x) * p.r).tdiv p.dur)),
    s2 v.startLevel, u4 v.fadeIn] ++
  (match v.fade with
    | none => [u1 0]
    | some f => [u1 1, lev f.a, lev f.b, u4 f.dur, u4 f.n, flag f.startedBy.isSome] ++ shownStarter f.startedBy) ++
  (match v.ramp with
    | none => [u1 0]
    | some p => [u1 1, u4 p.r, u4 p.dur, flag p.up, u1 (if p.stopping then 4 else 3)]) ++
  [u4 v.play, u4 v.fetch, u4 v.pos, flag v.startDue, flag v.startAligned, flag v.adjusted, u2 v.underruns, flag v.inUnderrun,
    u2 v.buffer.length]

/-- A panel's presence by its place in TABLE 7-3. -/
def shownPresence (p : Panel) : Nat := match p.presence with | .silent => 0 | .present => 1 | .lost => 2

/-- R135, TABLE 7-1: mix `m`, the presence of its panel, and the routes `rs` into it. -/
def shownMix (s : State) (m : Nat) (panel : Option Nat) (rs : List (Nat × Route)) : List Field :=
  let x := mixOf s m
  [u1 m, lev (masterOf s (24 + m)), u1 (dstSet s (24 + m)), s2 x.ceiling, s2 x.trimMin, s2 x.trimMax, u1 x.adjustable.length] ++
  x.adjustable.map u1 ++ [flag x.lossRecall, flag x.stopFeed, o1 panel, o1 (panel.map (fun a => shownPresence (panelOf s a))), u1 rs.length] ++
  rs.flatMap (fun p => [u1 p.2.src, u1 (ownerCode p.2.owner), u2 p.1, u2 (genOf s p.1), u1 (if p.2.state = .live then 1 else 2), lev p.2.base,
    s1 p.2.trim, flag p.2.mute, flag (x.adjustable.contains p.2.src), lev (p.2.last.getD .off)])

/-- R136, TABLE 7-2: the entry of address `a`. -/
def shownPanel (s : State) (a : Nat) : List Field :=
  let p := panelOf s a
  [u1 a, flag p.enrolled, o1 p.mix, u1 (shownPresence p), u2 p.misses] ++
  (match p.identity with | none => [u1 0, u4 0, u1 0] | some (n, v) => [u1 1, u4 n, u1 v]) ++
  (match p.lastSeq with | none => [u1 0, u1 0] | some q => [u1 1, u1 q]) ++
  match p.lastReply with
    | none => [u1 0]
    | some r => [u1 1, u1 r.seq, u1 (match r.code with | .ok => 0 | .denied => 1 | .noentry => 2 | _ => 3), flag r.adjusted,
        u2 (encodeFields r.data).length] ++ r.data

/-- R147, TABLE 8-1: zone `z`, its programme route where there is one, the handles of the call routes into it, and its lamp line's level. -/
def shownZone (s : State) (z : Nat) (calls : List Nat) : List Field :=
  let x := zoneOf s z
  [u1 z, flag x.enabled, s2 x.relay, s2 x.call, u4 x.attack, u4 x.release, o1 x.lamp, u1 x.groups.toNat, u1 x.set, o1 x.holder] ++
  (match (findKey s 100 (56 + z)).bind (fun n => (routeAt s n).map (fun r => (n, r))) with
    | none => [u2 0xFFFF, s2 0, u1 0]
    | some (n, r) => [u2 n, s2 r.duck] ++ (match r.duckFade with
      | none => [u1 0]
      | some f => [u1 1, s2 f.a, s2 f.b, u4 f.dur, u4 f.n])) ++
  [u1 calls.length] ++ calls.map u2 ++ [flag (x.lamp.any (fun l => (outputOf s l).high))]

/-- 12.4: call `id` in 23 bytes. -/
def shownCall (id : Nat) (c : Call) : List Field :=
  let recorded : Bool := match c.kind with | .recorded _ => true | .live _ => false
  let set (l : List Nat) : Nat := ((List.range 15).map (fun z => if z ∈ l then 2 ^ z else 0)).sum
  [u1 id, u1 (1 + (if c.active then 2 else 0) + (if recorded then 4 else 0) + (if c.started then 8 else 0) + (if c.seq = none then 16 else 0)),
    u2 (c.seq.getD 0), u2 (match c.kind with | .live i => i | .recorded k => k), u2 (set c.zones), u1 c.priority, s2 c.duck, u4 c.maxWait, u4 c.wait,
    u1 (match c.origin with | .port .a => 0 | .port .b => 1 | .list l => 2 + l | .preset p => 6 + p | .stopLink => 14), o1 c.voice, u2 (set c.routes)]

/-- R159, TABLE 8-4: a call preset. -/
def shownPreset (x : CallPreset) : List Field :=
  (match x.kind with | .live i => [u1 0, u2 i] | .recorded c => [u1 1, u2 c]) ++
  [u2 x.zones.toNat, u1 x.groups.toNat, u1 x.priority, s2 x.duck, u4 x.maxWait, u2 x.place, u2 x.release] ++
  (match x.placed with | none => [u1 0xFF, u2 0] | some (i, n) => [u1 i, u2 n])

/-- R166, TABLE 9-2: the link slots. -/
def shownLinks (s : State) : List Field :=
  let each (n : Nat) (slot : Nat → Nat) : List Field := u1 n :: (List.range n).map (fun i => u2 (slot i))
  each 4 (fun l => s.ef.goLinks.read 0 l) ++ each 8 (fun f => (fnOf s f).trigger) ++ each 16 (fun w => (watchOf s w).trigger) ++
  each 8 (fun p => (callPresetOf s p).place) ++ each 8 (fun p => (callPresetOf s p).release) ++ [u2 s.ef.stopLink, u2 s.ef.resumeLink] ++
  each 8 (fun k => (s.cf.links.read CondLink.init k).eventId)

/-- R170, TABLE 9-3, TABLE 9-4: the contact inputs, and of each output its configured owner, its present owner and its level. -/
def shownContacts (s : State) : List Field :=
  u1 16 :: (List.range 16).flatMap (fun i => let c := inputOf s i
    [flag c.raw, flag c.settled, flag c.rise, flag c.fall, u4 c.settle, flag c.limiter, o1 c.mirror, o4 c.sinceRise, o4 c.sinceFall,
      flag c.waiting]) ++
  u1 16 :: (List.range 16).flatMap (fun l => let o := outputOf s l
    [flag o.fnOwned, u1 (if isLamp s l = true then 2 else if o.fnOwned then 1 else 0), flag o.high])

/-- R174, TABLE 9-5: a watch. -/
def shownWatch (x : Watch) : List Field :=
  (match x.kind with
    | .meter src low high => [u1 0, u1 src, s2 low, s2 high, u2 0, u2 0]
    | .contacts m p => [u1 1, u1 0, s2 0, s2 0, u2 m.toNat, u2 p.toNat]) ++
  [u2 x.trigger, u1 (match x.mode with | .off => 0 | .once => 1 | .change => 2 | .continuous => 3)] ++
  (match x.pair with | none => [u1 0xFF, u1 0xFF] | some (a, b) => [u1 a, u1 b]) ++
  [u1 (match x.last with | none => 0 | some true => 1 | some false => 2)]

/-- R180, TABLE 10-1: the show state, and the handles `hs` of the SHOWSTOP routes, rising (log 19). -/
def shownShow (s : State) (hs : List Nat) : List Field :=
  [flag s.ss.locked, flag s.ss.stopped,
    u1 (match s.ss.stopCause with | none => 0xFF | some (.port .a) => 0 | some (.port .b) => 1 | some _ => 2), flag s.ss.key, u1 s.ss.stopSource,
    s2 s.ss.audLevel, s2 s.ss.foldLevel, s2 s.ss.relayLevel, u4 s.ss.audMask.toNat, u1 hs.length] ++ hs.map u2

/-- R194: every kind of notice and every node. -/
def shownNotices (s : State) : List Field :=
  u1 19 :: (List.range 19).flatMap (fun k => let x := noticeAt s k
    [flag x.pending, u2 x.count] ++ (match x.subject with | none => [u2 0xFFFF] | some (.num n) => [u2 n] | some (.key a b) => [u1 a, u1 b])) ++
  u1 4 :: (List.range 4).flatMap (fun n => [flag (nodeOf s n).enable, u4 (nodeOf s n).mask.toNat])

/-! ## Laws of the route table -/

/-- Who may hold a route into a destination (TABLE 1-4, R7). -/
def mayHold (o : Owner) (d : Nat) : Bool :=
  match o with
  | .cue _ => generalDst d
  | .desk => generalDst d
  | .foldback => isFoldDst d
  | .relay => isRelayDst d
  | .showstop => d < 24 || isFoldDst d || isRelayDst d

/-- What a call may carry (R151): an announcement input, or a clip of the directory's numbers. -/
def placedKind : CallKind → Bool
  | .live i => isAnnounce i
  | .recorded c => c ≤ 511

/-- R7: every route is held by an owner that may hold it; and what later routes come from names what exists: calls, call presets (R159) and
stored actions, which passed their posting checks (R91). -/
structure OwnersLawful (s : State) : Prop where
  routes : ∀ p ∈ s.rt.routes, mayHold p.2.owner p.2.dst = true
  calls : ∀ p ∈ s.rl.calls, placedKind p.2.kind = true ∧ ∀ z ∈ p.2.zones, z < 15
  presets : ∀ p ∈ s.rl.presets, placedKind p.2.kind = true ∧ p.2.priority ≤ 2
  cues : ∀ p ∈ s.cq.cues, badActions p.2.actions = false

/-- R10, R8, R180, R181: at most 944 records of owners other than SHOWSTOP, and 64 of them into one destination; at most 80 SHOWSTOP records, one
into a destination, and only while the show is stopped; the stop source is one of A0-A3, and the records that carry it are SHOWSTOP's. -/
structure CapacityHeld (s : State) : Prop where
  slots : ∀ p ∈ s.rt.routes, p.1 < 1024
  general : generalCount s ≤ 944
  perDest : ∀ d, destCount s d ≤ 64
  reserve : showstopCount s ≤ 80
  oneEach : ∀ p ∈ s.rt.routes, ∀ q ∈ s.rt.routes, p.2.owner = .showstop → q.2.owner = .showstop → p.2.dst = q.2.dst → p = q
  source : isAnnounce s.ss.stopSource = true
  reserved : ∀ p ∈ s.rt.routes, p.2.owner = .showstop ↔ p.2.src = s.ss.stopSource
  stopped : ∀ p ∈ s.rt.routes, p.2.owner = .showstop → s.ss.stopped = true

/-- R6, R9: no two records in use share a key; no record has a FREE voice as its source. R154, R157: a call's route leads into a zone that an
ACTIVE call holds, and is one of that call's; each of a call's routes is in use. -/
structure KeysUnique (s : State) : Prop where
  keys : ∀ p ∈ s.rt.routes, ∀ q ∈ s.rt.routes, p.2.src = q.2.src → p.2.dst = q.2.dst → p = q
  voices : ∀ p ∈ s.rt.routes, isVoice p.2.src = true → (voiceOf s (p.2.src - 64)).state ≠ .free
  calls : ∀ p ∈ s.rt.routes, p.2.owner = .relay → p.2.src ≠ pgmt →
    ∃ z c x, p.2.dst = 56 + z ∧ (zoneOf s z).holder = some c ∧ callOf s c = some x ∧ x.active = true ∧ callSource x = p.2.src ∧ z ∈ x.routes
  listed : ∀ c x z, callOf s c = some x → z ∈ x.routes →
    z ∈ x.zones ∧ ∃ p ∈ s.rt.routes, p.2.owner = .relay ∧ p.2.src = callSource x ∧ p.2.dst = 56 + z

/-- R49, R4, R52: a batch in use is one of eight, has 1 to 256 members, none twice, and each a RETIRING record of that batch; a record that names
a batch is RETIRING, with no base fade, and a member of it; a RETIRING record in no batch fades to OFF. A RELAY
record is RETIRING only as the programme route of a disabled zone (R148). -/
structure BatchesLinked (s : State) : Prop where
  members : ∀ k b, s.ru.batches.find k = some b → k < 8 ∧ 1 ≤ b.members.length ∧ b.members.length ≤ 256 ∧ (b.members.map (·.handle)).Nodup ∧
    ∀ m ∈ b.members, ∃ r, routeAt s m.handle = some r ∧ r.state = .retiring ∧ r.batch = some k
  records : ∀ n r k, routeAt s n = some r → r.batch = some k → r.state = .retiring ∧ r.fade = none ∧
    ∃ b, s.ru.batches.find k = some b ∧ n ∈ b.members.map (·.handle)
  relay : ∀ n r, routeAt s n = some r → r.owner = .relay → r.state = .retiring →
    r.src = pgmt ∧ ∃ z, r.dst = 56 + z ∧ (zoneOf s z).enabled = false
  alone : ∀ n r, routeAt s n = some r → r.state = .retiring → r.batch = none → ∃ f, r.fade = some f ∧ f.b = .off

/-- R149, R150, R161: a held zone is held by an ACTIVE call that names it, and every zone of an ACTIVE call is held by it; a QUEUED call holds
nothing; an ACTIVE call has a voice exactly where it is RECORDED; the arrival order lists the slots 0 to 15 in use; slot 16 is in use, by the stop
call, exactly while the show is stopped; a zone's lamp line is high exactly where some zone that names it is held. -/
structure HoldersAgree (s : State) : Prop where
  holders : ∀ z c, (zoneOf s z).holder = some c ↔ ∃ x, callOf s c = some x ∧ x.active = true ∧ z ∈ x.zones
  zones : ∀ c x, callOf s c = some x → x.zones ≠ [] ∧ x.zones.Nodup
  voices : ∀ c x, callOf s c = some x → x.active = true → x.voice.isSome = isRecorded x
  queued : ∀ c x, callOf s c = some x → x.active = false → x.routes = [] ∧ x.voice = none ∧ x.started = false
  slots : ∀ c x, callOf s c = some x → (c < 16 ∧ x.priority ≤ 2 ∧ x.seq.isSome = true) ∨ (c = 16 ∧ x.priority = 3 ∧ x.seq = none ∧ x.active = true ∧
    x.kind = .live s.ss.stopSource ∧ x.zones = List.range 15 ∧ x.routes = [])
  order : s.rl.order.Nodup ∧ ∀ c, c ∈ s.rl.order ↔ c < 16 ∧ (callOf s c).isSome = true
  stop : (callOf s 16).isSome = s.ss.stopped
  lamps : ∀ l, l < 16 → isLamp s l = true →
    (outputOf s l).high = (List.range 15).any (fun z => (zoneOf s z).lamp == some l && (zoneOf s z).holder.isSome)

/-- R116, R117, R68, R69: a voice has a claimant exactly while it is not FREE. One claimed for a standby's label waits, with no start mark, and the
list stands at that cue; one claimed for a call is that ACTIVE call's, and the reverse; the label map of a running record names voices claimed
for its labels. A label waits at most once, of a standby, with no voice of its own, and only while no voice is FREE. Only a voice of a running
label fades to OFF (R98). -/
structure ClaimantsAgree (s : State) : Prop where
  claimed : ∀ n, ((voiceOf s n).state = .free ↔ (voiceOf s n).claimant = none) ∧ ((voiceOf s n).state ≠ .free → n < 32)
  standby : ∀ n l k x, (voiceOf s n).claimant = some (.standby l k x) → (listOf s l).standby = some k ∧
    ((voiceOf s n).state = .preloading ∨ (voiceOf s n).state = .primed) ∧ (voiceOf s n).startDue = false ∧ (voiceOf s n).startAligned = false ∧
    (voiceOf s n).starting = false
  calls : ∀ n c, (voiceOf s n).claimant = some (.call c) ↔ ∃ x, callOf s c = some x ∧ x.active = true ∧ x.voice = some n
  labels : ∀ l r p, r ∈ (listOf s l).running → p ∈ r.labels → (voiceOf s p.2).claimant = some (.running l r.take p.1)
  fades : ∀ n f, (voiceOf s n).fade = some f → f.b = .off → heldByTake (voiceOf s n) = true
  waits : s.ve.waits.Nodup ∧ s.ve.waits.length ≤ 32 ∧ ∀ w ∈ s.ve.waits, w.list < 4 ∧ w.label < 8 ∧ (listOf s w.list).standby = some w.number ∧
    ∀ n, (voiceOf s n).claimant ≠ some (.standby w.list w.number w.label)
  noneFree : s.ve.waits ≠ [] → ∀ n, n < 32 → (voiceOf s n).state ≠ .free
  pointers : ∀ l k, (listOf s l).standby = some k →
    k ≤ 999999 ∧ (cueOf s l k).isSome = true ∧ ((listOf s l).state = .preloading ∨ (listOf s l).state = .primed)

/-- R136, R137, R143: an address enrolled is one of 1 to 32, and any other has no entry; a mix is bound to at most one panel; a PRESENT panel has
missed fewer than eight polls in a row; a poll in progress is of an enrolled address. -/
structure PanelsBound (s : State) : Prop where
  enrolled : ∀ a, (panelOf s a).enrolled = true → 1 ≤ a ∧ a ≤ 32
  absent : ∀ a, (panelOf s a).enrolled = false → panelOf s a = Panel.init
  mixes : ∀ a m, (panelOf s a).mix = some m → m ≤ 31
  once : ∀ a b m, (panelOf s a).mix = some m → (panelOf s b).mix = some m → a = b
  misses : ∀ a, (panelOf s a).presence = .present → (panelOf s a).misses < 8
  polled : ∀ a, s.fb.polling = some a → (panelOf s a).enrolled = true

/-- The invariants of the records, together: each is kept by every step from a state that meets them all. -/
structure Sound (s : State) : Prop where
  ordered : RecordsOrdered s
  owners : OwnersLawful s
  capacity : CapacityHeld s
  keys : KeysUnique s
  batches : BatchesLinked s
  holders : HoldersAgree s
  claimants : ClaimantsAgree s
  panels : PanelsBound s

/-! ## A GO, a stop and a resume, taken -/

/-- R76 steps 1 to 3: `a` is `s` as the actions of a GO with a true qualifier find it: with eight running records the oldest has completed; the
GO's record stands at the end of the set, its counts 0 and its label map the voices of the labels of cue `n`, in rising number (log 32); those
voices are the record's, and the cue's waiting labels have left. Its taking mark holds its completion back until the GO's end (log 13). -/
def GoBegun (l n : Nat) (s a : State) : Prop :=
  let q := listOf s l
  let oldest := if 8 ≤ q.running.length then q.running.head? else none
  let labels := (List.range 32).filterMap (fun v => match (voiceOf s v).claimant with
    | some (.standby i k x) => if i = l ∧ k = n then some (x, v) else none
    | _ => none)
  (∀ m, listOf a m = if m = l then { q with
    trigger := none
    takes := (q.takes + 1) % 4294967296
    running := q.running.filter (fun r => oldest.all (fun o => decide (r.take ≠ o.take))) ++ [⟨n, q.takes, 0, 0, labels, true⟩] } else listOf s m) ∧
  (∀ v, voiceOf a v = match (voiceOf s v).claimant with
    | some (.standby i k x) => if i = l ∧ k = n then { voiceOf s v with claimant := some (.running l q.takes x) } else voiceOf s v
    | _ => voiceOf s v) ∧
  a.ve.waits = s.ve.waits.filter (fun w => !(w.list == l && w.number == n)) ∧
  (oldest = none → a.ef = s.ef) ∧
  (oldest.isSome = true → s.ef.depth < 5 → a.ef.events = s.ef.events ++ [⟨136 + l, s.ef.depth, s.ef.cause, []⟩]) ∧
  (∀ k, k ≠ .chain → noticeOf a k = noticeOf s k) ∧
  a = { s with
    ve := { s.ve with voices := a.ve.voices, waits := a.ve.waits }, cq := { s.cq with lists := a.cq.lists }
    ef := { s.ef with events := a.ef.events }, nt := { s.nt with kinds := a.nt.kinds } }

/-- R81: the pending trigger of a cue that the pointer reaches at a GO: CONTINUE counts from 0; FOLLOW awaits the running record `awaited`, or counts
from 0 where there is none to await. -/
def armedAt (c : Cue) (awaited : Option Nat) : Option Pending :=
  match c.trigger with
  | .continue => some ⟨.continue, .counting 0, c.delay, false⟩
  | .follow => some ⟨.follow, match awaited with | some k => .awaiting k | none => .counting 0, c.delay, false⟩
  | _ => none

/-- R77, R79, R72, R69, R81, R85: `t` is the end of a GO of list `l` with a true qualifier, whose actions left `e`, whose take number is `k`, whose
next cue is `next`, and of which `late` says whether a voice starts late: the GO's record completes where nothing of it is outstanding, and stands
otherwise, the others as they are; the new standby's trigger is armed; LATE-START and LIST-END are raised once each where due; and the events are
list-ended or, where the new standby is ready at once, standby-primed, then GO-taken, then cue-complete where the record completes. -/
def GoEnded (l k : Nat) (next : Option Nat) (late : Bool) (e t : State) : Prop :=
  let ends : Prop := ∀ r, runningOf e l k = some r → r.fades = 0 ∧ r.late = 0
  let event (id : Nat) : InFlight := ⟨id, e.ef.depth, e.ef.cause, []⟩
  (∃ r, runningOf e l k = some r) ∧
  (ends → (listOf t l).running = (listOf e l).running.filter (fun r => r.take ≠ k)) ∧
  (¬ends → (listOf t l).running = (listOf e l).running.map (fun r => if r.take = k then { r with taking := false } else r)) ∧
  (∀ m c, next = some m → cueOf e l m = some c →
    ((listOf t l).state = .preloading ∨ (listOf t l).state = .primed) ∧
    (ends → (listOf t l).trigger = armedAt c none) ∧ (¬ends → (listOf t l).trigger = armedAt c (some k))) ∧
  (next = none → (listOf t l).trigger = none) ∧
  noticeOf t .lateStart = (if late = true then raisedNotice (.num l) (noticeOf e .lateStart) else noticeOf e .lateStart) ∧
  noticeOf t .listEnd = (if next = none then raisedNotice (.num l) (noticeOf e .listEnd) else noticeOf e .listEnd) ∧
  (e.ef.depth < 5 →
    let reached := if next = none then [event (140 + l)] else if (listOf t l).state = .primed then [event (132 + l)] else []
    (ends → t.ef.events = e.ef.events ++ reached ++ [event (128 + l), event (136 + l)]) ∧
    (¬ends → t.ef.events = e.ef.events ++ reached ++ [event (128 + l)]))

/-- What list `l` and the store look like after a GO took its standby, cue `n` standing as `c`, with outcome `o` (R72, R75 to R77, R79, R81, R86):
the outcome accounts for every action, the take counter counts taken GOs, the pointer stands at the next cue, the other lists keep their standbys,
and no setting changed. From a sound state: with a true qualifier the actions ran in turn between `GoBegun` and `GoEnded`, from an empty outcome;
with a false one nothing ran, and the next cue's trigger is armed with nothing to await. -/
def CueTaken (l n : Nat) (c : Cue) (o : CueOutcome) (s t : State) : Prop :=
  t.cq.cues.find (cueKey l n) = some { c with outcome := some o } ∧ o.qualifier = condOf s c.qual ∧
  o.take = (if condOf s c.qual then some (listOf s l).takes else none) ∧ o.done + o.skipped + o.failed = c.actions.length ∧
  (∀ k, k ≠ cueKey l n → t.cq.cues.find k = s.cq.cues.find k) ∧
  (listOf t l).takes = (if condOf s c.qual then ((listOf s l).takes + 1) % 4294967296 else (listOf s l).takes) ∧
  (listOf t l).sinceGo = some 0 ∧ (listOf t l).standby = cueFrom s l (n + 1) ∧
  (cueFrom s l (n + 1) = none → (listOf t l).state = .ended) ∧
  (listOf t l).guard = (listOf s l).guard ∧ (listOf t l).promptGo = (listOf s l).promptGo ∧
  (∀ m, m ≠ l → fixedOf (listOf t m) = fixedOf (listOf s m)) ∧ settings t = settings s ∧
  (Sound s → condOf s c.qual = true → (∀ r ∈ (listOf s l).running, r.take ≠ (listOf s l).takes) →
    ∃ a e, GoBegun l n s a ∧
      c.actions.foldl (goAction ⟨l, (listOf s l).takes, c⟩) (a, ⟨true, some (listOf s l).takes, 0, 0, 0, none, false, false⟩) = (e, o) ∧
      GoEnded l (listOf s l).takes (cueFrom s l (n + 1)) o.late e t) ∧
  (Sound s → condOf s c.qual = false →
    o = ⟨false, none, 0, c.actions.length, 0, none, c.actions.any (·.clamped), false⟩ ∧
    (∀ m x, cueFrom s l (n + 1) = some m → cueOf s l m = some x → (listOf t l).trigger = armedAt x none) ∧
    (cueFrom s l (n + 1) = none → (listOf t l).trigger = none) ∧
    noticeOf t .lateStart = noticeOf s .lateStart ∧
    noticeOf t .listEnd = (if cueFrom s l (n + 1) = none then raisedNotice (.num l) (noticeOf s .listEnd) else noticeOf s .listEnd) ∧
    (s.ef.depth < 5 →
      let event (id : Nat) : InFlight := ⟨id, s.ef.depth, s.ef.cause, []⟩
      ∃ x, t.ef.events = s.ef.events ++ x ++ [event (128 + l), event (136 + l)] ∧
        (cueFrom s l (n + 1) = none → x.getLast? = some (event (140 + l))) ∧
        ((listOf t l).state = .primed → x.getLast? = some (event (132 + l)))))

/-- R124, R125, R119: what a stop makes of a voice: one of a running label that is PLAYING or STOPPING is PAUSING, on a new ramp or its own turned
DOWN; in any other state, no boundary's mark to start is left on it. -/
def stoppedVoice (ramp : Nat) (v : Voice) : Voice :=
  if heldByTake v = false then v
  else if v.state = .playing ∨ v.state = .stopping then { v with
    state := .pausing
    ramp := match v.ramp with
      | some p => some { p with up := false }
      | none => some ⟨0, ramp, false, v.state = .stopping⟩ }
  else { v with starting := false }

/-- R125: what a resume makes of a voice with a pause ramp. -/
def resumedVoice (v : Voice) : Voice :=
  match v.ramp with
  | none => v
  | some p => { v with
    ramp := some { p with up := true }
    state := if v.state = .pausing ∨ v.state = .paused then (if p.stopping then .stopping else .playing) else v.state }

/-- A route that a preemption of `x` releases (R155): one of the call's own, or any that its voice carries (R126). -/
def leavesWith (x : Call) (r : Route) : Prop :=
  (r.src = callSource x ∧ ∃ z ∈ x.routes, r.dst = 56 + z) ∨ ∃ v, x.voice = some v ∧ r.src = 64 + v

/-- R182: a SHOWSTOP route stands in a slot that was FREE for each destination that the stop feeds, and no other route is new or SHOWSTOP's. -/
def StopRouted (s t : State) : Prop :=
  (∀ d, stopFeeds s d = true → ∃ n, routeAt s n = none ∧ routeAt t n = some
    { state := .live, src := s.ss.stopSource, dst := d, owner := .showstop, base := .step (stopLevelOf s d), trim := 0, mute := false, duck := 0
      set := if d < 56 then dstSet s d else (zoneOf s (d - 56)).set
      prot := false, fade := none, duckFade := none, batch := none, last := none }) ∧
  (∀ n r, routeAt t n = some r → routeAt s n = none ∨ r.owner = .showstop → r.src = s.ss.stopSource ∧ r.owner = .showstop ∧ stopFeeds s r.dst = true)

/-- R161, R155, R124, R182: what a stop makes of a sound state with any calls: every ACTIVE call is QUEUED again, its routes released, its voice freed
and handed on, and CALL-PREEMPTED raised, in rising slot order; the programme ducks go to -1024, the lamps high, every other record stands, and the
zone events come last but for event 176. -/
def StopPreempts (s t : State) : Prop :=
  (∀ m x, m ≠ 16 → callOf s m = some x →
    callOf t m = some (if x.active = true then { x with active := false, wait := 0, voice := none, started := false, routes := [] } else x)) ∧
  (∃ ms : List Nat, ms.Pairwise (· < ·) ∧ (∀ m, m ∈ ms ↔ ∃ x, callOf s m = some x ∧ x.active = true) ∧
    noticeOf t .callPreempted = ms.foldl (fun y m => raisedNotice (.num m) y) (noticeOf s .callPreempted)) ∧
  (∀ n r, routeAt s n = some r →
    let leaves : Prop := ∃ m x, callOf s m = some x ∧ x.active = true ∧ leavesWith x r
    (leaves → routeAt t n = none ∧ genOf t n = (genOf s n + 1) % 65536) ∧
    (¬leaves → genOf t n = genOf s n ∧
      (∀ z, z < 15 → r.src = pgmt → r.dst = 56 + z →
        routeAt t n = some { r with duckFade := some ⟨r.duck, -1024, (zoneOf s z).attack, 0⟩ }) ∧
      (¬(r.src = pgmt ∧ ∃ z, z < 15 ∧ r.dst = 56 + z) → routeAt t n = some r))) ∧
  StopRouted s t ∧
  (∀ v, (∀ c, (voiceOf s v).claimant ≠ some (.call c)) → voiceOf t v = stoppedVoice s.ve.pauseRamp (voiceOf s v)) ∧
  (∀ v c, (voiceOf s v).claimant = some (.call c) →
    (voiceOf t v).claimant = none ∨ ∃ w ∈ s.ve.waits, (voiceOf t v).claimant = some (.standby w.list w.number w.label)) ∧
  (∀ k b, t.ru.batches.find k = some b → ∃ x, s.ru.batches.find k = some x ∧
    { b with members := x.members } = if x.cls = .cue then { x with suspended := true } else x) ∧
  (∀ l, outputOf t l = if l < 16 ∧ isLamp s l = true then { outputOf s l with high := true } else outputOf s l) ∧
  (s.ef.depth < 5 → ∃ x, t.ef.events = s.ef.events ++ x ++
      ((List.range 15).map (fun z => InFlight.mk (144 + z) s.ef.depth s.ef.cause []) ++ [⟨176, s.ef.depth, s.ef.cause, []⟩]) ∧
    ((∀ m c, callOf s m = some c → c.active = true → c.voice = none) →
      (∀ n r, routeAt s n = some r → r.owner = .relay → r.src ≠ pgmt → r.fade = none) → x = []))

/-- R181, R182, R161, R124, R60: what a stop with cause `c`, taken while the show runs, makes of the state; where no call is ACTIVE, also what
becomes of every voice, batch, route and event; from a sound state, what becomes of them with any calls. `stopSubject` is the subject of
SHOW-STOP. -/
def StopTaken (c : CallOrigin) (stopSubject : Nat) (s t : State) : Prop :=
  t.ss = { s.ss with stopped := true, stopCause := some c } ∧ settings t = { settings s with ss := t.ss } ∧
  callOf t 16 = some ⟨none, .live s.ss.stopSource, List.range 15, 3, -1024, 0, 0, c, true, none, false, []⟩ ∧
  (∀ n, n ≠ 16 → (callOf t n).map callFixed = (callOf s n).map callFixed ∧ ∀ x, callOf t n = some x → x.active = false) ∧
  (∀ z, z < 15 → zoneOf t z = { zoneOf s z with holder := some 16 }) ∧
  noticeOf t .showStop = raisedNotice (.num stopSubject) (noticeOf s .showStop) ∧
  (Sound s → StopPreempts s t) ∧
  ((∀ p ∈ s.rl.calls, p.2.active = false) →
    (s.ef.depth < 5 → t.ef.events = s.ef.events ++
      ((List.range 15).map (fun z => InFlight.mk (144 + z) s.ef.depth s.ef.cause []) ++ [⟨176, s.ef.depth, s.ef.cause, []⟩])) ∧
    (∀ n, voiceOf t n = stoppedVoice s.ve.pauseRamp (voiceOf s n)) ∧
    (∀ k, t.ru.batches.find k = (s.ru.batches.find k).map (fun b => if b.cls = .cue then { b with suspended := true } else b)) ∧
    StopRouted s t ∧
    (∀ n r, routeAt s n = some r → ∃ r', routeAt t n = some r' ∧ { r' with duckFade := r.duckFade } = r) ∧
    (∀ z n r, z < 15 → programmeRoute s z = some n → routeAt s n = some r →
      routeAt t n = some { r with duckFade := some ⟨r.duck, -1024, (zoneOf s z).attack, 0⟩ }) ∧
    ∀ n, genOf t n = genOf s n)

/-- R162: what the end of the stop call makes of a sound state with any calls: the calls that the scan activates hold their zones and duck them from
where the duck stands; every other zone is free and its duck is released to 0; the zone-freed events come first, in zone order, and event 177 last. -/
def ResumeScans (s t : State) : Prop :=
  (∀ z n r, z < 15 → routeAt s n = some r → r.src = pgmt → r.dst = 56 + z → genOf t n = genOf s n ∧
    ((zoneOf t z).holder = none → routeAt t n = some { r with duckFade := some ⟨r.duck, 0, (zoneOf s z).release, 0⟩ }) ∧
    (∀ m c, (zoneOf t z).holder = some m → callOf t m = some c →
      routeAt t n = some { r with duckFade := some ⟨r.duck, c.duck, (zoneOf s z).attack, 0⟩ })) ∧
  (∀ n r, routeAt s n = some r → r.owner ≠ .showstop → ¬(r.src = pgmt ∧ ∃ z, z < 15 ∧ r.dst = 56 + z) → routeAt t n = some r) ∧
  (∀ z, { zoneOf t z with holder := none } = { zoneOf s z with holder := none }) ∧
  (∀ m c, callOf t m = some c → c.active = false → mayActivate t c = false) ∧
  (∀ v, heldByTake (voiceOf s v) = true → voiceOf t v = resumedVoice (voiceOf s v)) ∧
  (s.ef.depth < 5 → (∀ n r, routeAt s n = some r → r.owner = .showstop → r.fade = none) → ∃ x, t.ef.events = s.ef.events ++
    (List.range 15).map (fun z => InFlight.mk (160 + z) s.ef.depth s.ef.cause []) ++ x ++ [⟨177, s.ef.depth, s.ef.cause, []⟩])

/-- R183, R162, R125, R61: what a resume makes of the state; where the stop call is the only call, also what becomes of every voice, zone,
lamp, event and route; from a sound state, what becomes of them with any calls. -/
def ResumeTaken (s t : State) : Prop :=
  t.ss = { s.ss with stopped := false, stopCause := none } ∧ settings t = { settings s with ss := t.ss } ∧
  callOf t 16 = none ∧ (∀ n, n ≠ 16 → (callOf t n).map callFixed = (callOf s n).map callFixed) ∧
  (∀ n r, routeAt t n = some r → r.owner ≠ .showstop) ∧
  (∀ k b, t.ru.batches.find k = some b → b.suspended = false) ∧
  (∀ n p, (voiceOf t n).ramp = some p → p.up = true ∧ (voiceOf t n).state ≠ .pausing ∧ (voiceOf t n).state ≠ .paused) ∧
  (s.ef.depth < 5 → t.ef.events.getLast? = some ⟨177, s.ef.depth, s.ef.cause, []⟩) ∧
  (Sound s → ResumeScans s t) ∧
  ((∀ n, n ≠ 16 → callOf s n = none) →
    (∀ z, z < 15 → zoneOf t z = { zoneOf s z with holder := none }) ∧
    (∀ n, voiceOf t n = resumedVoice (voiceOf s n)) ∧
    (∀ l, outputOf t l = if l < 16 ∧ isLamp s l = true then { outputOf s l with high := false } else outputOf s l) ∧
    (s.ef.depth < 5 → (∀ n r, routeAt s n = some r → r.owner = .showstop → r.fade = none ∧ r.batch = none) → t.ef.events = s.ef.events ++
      ((List.range 15).map (fun z => InFlight.mk (160 + z) s.ef.depth s.ef.cause []) ++ [⟨177, s.ef.depth, s.ef.cause, []⟩])) ∧
    ∀ n r, routeAt s n = some r →
      (r.owner = .showstop → routeAt t n = none ∧ genOf t n = (genOf s n + 1) % 65536) ∧
      (r.owner ≠ .showstop → genOf t n = genOf s n ∧
        (∃ r', routeAt t n = some r' ∧ { r' with duckFade := r.duckFade } = r) ∧
        ∀ z, z < 15 → programmeRoute s z = some n →
          routeAt t n = some { r with duckFade := some ⟨r.duck, 0, (zoneOf s z).release, 0⟩ }))

end Sys2Proof.Machine
end

