-- ==== Sys2Proof/Certificates/Slice0/Obligations.lean ====
section
/-! DEFINITION. The statements for the provers. A request is said to act through `Taken h s t` (R190): in `s` the port takes it as it arrives, and
it acts on `t`; its answer is the reply that joins the port's queue. A delivery acts through `Delivered` (R165). Frames are written as the next
state with only the named parts replaced, or by `settings` and reads of single records. -/

open Sys2Proof Sys2Proof.Machine

/-! ## The step and the reset -/

/-- The command at the front of the queue runs on the state with the queue's rest; an empty queue idles (log 2). -/
def Obligations.StepTakesTheFrontCommand : Prop :=
  (∀ (c : Instr) (rest : List Instr) (s : State), step { s with pending := c :: rest } = exec c { s with pending := rest }) ∧
    ∀ s : State, s.pending = [] → step s = .next s

/-- R23: after cold reset every slot is FREE, every generation 0, the key index empty, every count 0, every gain code 0, and the stop source A3.
R88: the cue store and the lists are empty. -/
def Obligations.ColdResetEmptiesRoutesAndCues : Prop :=
  (∀ s : State, ∃ t, exec .coldReset s = .next t ∧
     (∀ n, routeAt t n = none ∧ genOf t n = 0) ∧ (∀ src dst, findKey t src dst = none) ∧ generalCount t = 0 ∧ showstopCount t = 0 ∧
     (∀ d, destCount t d = 0 ∧ ∀ p ∈ t.rt.routes, ¬(p.2.owner = .showstop ∧ p.2.dst = d)) ∧
     (∀ k, t.le.crosspoints.read Crosspoint.init k = ⟨0, 0⟩) ∧ t.ss.stopSource = 99) ∧
  (∀ s : State, ∃ t, exec .coldReset s = .next t ∧
     (∀ l n, cueOf t l n = none) ∧ cueCount t = 0 ∧ actionCount t = 0 ∧
     (∀ l, listOf t l = ⟨.empty, none, none, [], 0, 300, false, none⟩) ∧ t.ve.waits = [] ∧ ∀ l, t.ef.goLinks.read 0 l = 0)

/-- Cold reset (R195), from every state, leaves what `State.reset` lists (the values no rule gives: logs 6, 8, 10); contact and key lines stand as
they are at the instant the command is taken (log 24); the memory's content is a new free value (log 7); the model's queue is kept. Start-up (R195),
completed with a memory of 2^24 to 2^29 words, sets READY and the memory's size, once; completed again, it changes nothing (the model's choice, log
5). -/
def Obligations.ColdResetAndStartUp : Prop :=
  (∀ s : State, s.ef.inputs.rising = true → ∃ t, exec .coldReset s = .next t ∧
    t = { State.reset with
      pending := s.pending
      ef := { State.reset.ef with inputs := t.ef.inputs }
      ss := { State.reset.ss with key := s.ss.key }
      smp := { State.reset.smp with memory := ⟨s.smp.memory.epoch + 1, []⟩ } } ∧
    ∀ i, inputOf t i = { ContactIn.init with raw := (inputOf s i).raw, settled := (inputOf s i).raw }) ∧
  ∀ (k : Nat) (s : State), 24 ≤ k → k ≤ 29 →
    exec (.startUpComplete k) s = .next (if s.ready then s else { s with ready := true, smp := { s.smp with size := 2 ^ k } })

/-- The reset state meets every invariant stated below. -/
def Obligations.ResetMeetsTheInvariants : Prop :=
  MemoryCanonical State.reset ∧ QueuesBounded State.reset ∧ Sound State.reset

/-! ## Invariants that every step keeps -/

/-- R189, R190: no port queue ever exceeds 8, no request waits that its port may take, and a WriteSamples in flight keeps its place in port A's
reply queue. That none waits that may be taken is the model's choice: a port takes in the command that lets it (log 3). -/
def Obligations.StepsKeepPortQueuesBounded : Prop :=
  ∀ s t : State, QueuesBounded s → step s = .next t → QueuesBounded t

/-- Every table of records lists each number once, rising, after every step; and the sample memory stays canonical. -/
def Obligations.StepsKeepRecordsOrdered : Prop :=
  (∀ s t : State, RecordsOrdered s → step s = .next t → RecordsOrdered t) ∧
    ∀ s t : State, MemoryCanonical s → step s = .next t → MemoryCanonical t

/-- R7: no step gives a route to an owner that may not hold its destination. -/
def Obligations.StepsKeepOwnersLawful : Prop :=
  ∀ s t : State, Sound s → step s = .next t → OwnersLawful t

/-- R10: no step brings the records of owners other than SHOWSTOP above 944, or above 64 into one destination, nor those of SHOWSTOP above 80. -/
def Obligations.StepsKeepCapacityHeld : Prop :=
  ∀ s t : State, Sound s → step s = .next t → CapacityHeld t

/-- R6, R9: no step makes two records in use share a key, nor leaves a record on a FREE voice. -/
def Obligations.StepsKeepKeysUnique : Prop :=
  ∀ s t : State, Sound s → step s = .next t → KeysUnique t

/-- R49, R4: after every step the members of a batch are RETIRING records of that batch, 1 to 256, none twice, and a record that names a batch is a
member of it. -/
def Obligations.StepsKeepBatchesLinked : Prop :=
  ∀ s t : State, Sound s → step s = .next t → BatchesLinked t

/-- R149, R150: after every step the zones' holders and the ACTIVE calls agree, and the lamp lines follow the holders. -/
def Obligations.StepsKeepHoldersAgree : Prop :=
  ∀ s t : State, Sound s → step s = .next t → HoldersAgree t

/-- R116, R117, R69: after every step a voice has a claimant exactly while it is not FREE, and claimants, standbys, calls, label maps and the wait
list agree. -/
def Obligations.StepsKeepClaimantsAgree : Prop :=
  ∀ s t : State, Sound s → step s = .next t → ClaimantsAgree t

/-- R136, R137, R143: after every step a mix is bound to at most one panel, and only enrolled addresses are polled or hold an entry. That an address
not enrolled reads as after cold reset, its presence, miss count, identity and last sequence with it, is the model's choice (log 44). -/
def Obligations.StepsKeepPanelsBound : Prop :=
  ∀ s t : State, Sound s → step s = .next t → PanelsBound t

/-- Every well-formed command goes on, in every state; a clock, line or delivery command of a unit the part does not have faults, and so does a
start-up with a memory it cannot find (log 29). -/
def Obligations.WellFormedCommandsGoOn : Prop :=
  (∀ (i : Instr) (s : State), i.wf = true → GoesOn i s) ∧
    ∀ (n : Nat) (level : Bool) (s : State),
      (32 ≤ n → ∀ i ∈ [Instr.voiceStart n, .voiceEnd n, .voiceFadeComplete n, .pauseRampEnd n, .pauseRampUpEnd n],
        exec i s = .fault .noSuchUnit) ∧
      (1024 ≤ n → ∀ i ∈ [Instr.baseFadeComplete n, .duckFadeComplete n], exec i s = .fault .noSuchUnit) ∧
      (8 ≤ n → ∀ i ∈ [Instr.windowExpiry n, .batchComplete n, .outputFunction n, .presetPlaceLink n, .presetReleaseLink n, .conditionLink n],
        exec i s = .fault .noSuchUnit) ∧
      (16 ≤ n → ∀ i ∈ [Instr.contactChange n level, .contactSettle n, .callExpired n, .watchEvaluation n], exec i s = .fault .noSuchUnit) ∧
      (4 ≤ n → ∀ i ∈ [Instr.triggerDue n, .timerPeriod n, .goLink n, .eventTriggerArrival n], exec i s = .fault .noSuchUnit) ∧
      (n < 24 ∨ 29 < n → exec (.startUpComplete n) s = .fault .noSuchMemory)

/-! ## Ports -/

/-- R188: the eight items of the status byte (their bits by TABLE 12-1), and that every transaction opens with it. -/
def Obligations.StatusByteOpensEveryTransaction : Prop :=
  (∀ (s : State) (p : Port),
    (statusByte s p).getLsbD 7 = s.ready ∧ (statusByte s p).getLsbD 6 = decide (8 ≤ (portOf s p).requests.length) ∧
    (statusByte s p).getLsbD 5 = decide ((portOf s p).replies ≠ []) ∧ (statusByte s p).getLsbD 4 = notify s ∧
    (statusByte s p).getLsbD 3 = (portOf s p).dropped ∧ (statusByte s p).getLsbD 2 = s.ss.stopped ∧
    (statusByte s p).getLsbD 1 = s.ss.locked ∧ (statusByte s p).getLsbD 0 = s.ss.key) ∧
  ∀ (s : State) (p : Port) (bytes : List Byte) (n : Nat),
    (∃ t, exec (.writeRequest p bytes) s = .next t ∧ (portOf t p).out.head? = some (statusByte s p)) ∧
    (∃ t, exec (.readReply p n) s = .next t ∧ (portOf t p).out.head? = some (statusByte s p)) ∧
    exec (.unknownSelector p n) s =
      .next (updPort p (fun x => { x with dropped := false, out := statusByte s p :: List.replicate n 0 }) s)

/-- R189, R190, R197: a whole frame arrives at its port, or is dropped with the flag set and DROPPED-REQUEST raised; a short one is discarded. A
port takes the request at its head, as a cause of its own, while it has none in progress and a place for the reply, and so on until none is left
that it may take. A request row is the arrival of its request (log 3). That a WRITE-REQUEST sends the status byte alone is the model's choice (log
48). -/
def Obligations.RequestsArriveAndAreTakenInOrder : Prop :=
  (∀ (p : Port) (i : Instr) (s : State),
    (s.ready = true → (portOf s p).requests.length < 8 →
      arrive p i s = updPort p (fun x => { x with requests := x.requests ++ [i] }) s) ∧
    (s.ready = false ∨ 8 ≤ (portOf s p).requests.length →
      arrive p i s = raise .droppedRequest (.num (portCode p)) (updPort p (fun x => { x with dropped := true }) s))) ∧
  (∀ (p : Port) (s : State),
    (canTake s p = true ↔ s.ready = true ∧ (portOf s p).inProgress = none ∧ (portOf s p).replies.length < 8) ∧
    (canTake s p = false ∨ (portOf s p).requests = [] → takeWaiting p s = s) ∧
    ∀ i rest, canTake s p = true → (portOf s p).requests = i :: rest →
      takeWaiting p s = takeWaiting p (runRequest i (begin 1 (updPort p (fun x => { x with requests := rest }) s)))) ∧
  (∀ (i : Instr) (h : Hdr) (s : State), i.header = some h →
    exec i s = .next (takeWaiting h.port (arrive h.port i s)) ∧
    (∀ t, Taken h s t → exec i s = .next (runRequest i t))) ∧
  ∀ (s : State) (p : Port) (bytes : List Byte),
    let o := updPort p (fun x => { x with dropped := false, out := [statusByte s p] }) s
    (∀ i, requestFrame p bytes = some i → exec (.writeRequest p bytes) s = .next (takeWaiting p (arrive p i o))) ∧
    (requestFrame p bytes = none → exec (.writeRequest p bytes) s = .next o)

/-- R191, R189: the reply at the head is sent as far as the transaction clocks it, and the dropped flag is cleared; once its whole frame is sent it
leaves the queue, and the port takes what it may (R190) in the same command (the model's choice, log 3). Bytes clocked beyond a
whole frame read as 0 (the model's reading, log 46). -/
def Obligations.ReadReplySendsTheHeadReply : Prop :=
  ∀ (s : State) (p : Port) (n : Nat),
    (∀ r rest, (portOf s p).replies = r :: rest → (replyFrame r).length ≤ n →
      exec (.readReply p n) s = .next (takeWaiting p (updPort p (fun x => { x with
        dropped := false, replies := rest
        out := statusByte s p :: replyFrame r ++ List.replicate (n - (replyFrame r).length) 0 }) s))) ∧
    (∀ r rest, (portOf s p).replies = r :: rest → n < (replyFrame r).length →
      exec (.readReply p n) s = .next (updPort p (fun x => { x with
        dropped := false, out := statusByte s p :: (replyFrame r).take n }) s)) ∧
    ((portOf s p).replies = [] →
      exec (.readReply p n) s = .next (updPort p (fun x => { x with
        dropped := false, out := statusByte s p :: List.replicate n 0 }) s))

/-- TABLE 11-1, R186: a request that only reads changes nothing but its reply, on either port, and is answered OK where it names what exists; an
unknown request is answered INVALID and changes nothing. What each of the reads reports, its layout written out in `shownRoute` and its fellows,
and what a read is answered whose number is out of range or names nothing (R15, R16, R43, R44, R61, R67, R87, R108, R112, R117, R135, R136, R147,
R150, R159, R166, R170, R174, R180, R194, R196). The layout of a reply's payload is the model's choice (log 19), and so are the widths of the
identity, the revision modulo 65,536 (log 9); the layout of an action without a fade is log 18, the order of a standby's voices log 32, and the
numbering of a voice's states by TABLE 6-3 the model's reading (log 47). ReadCue checks its list before its number (the model's reading, log 30). The
wait count of an ACTIVE call is sent as it stands in its record, 0 by the model's choice (log 53). -/
def Obligations.ReadsAnswerAndChangeNothing : Prop :=
  ((∀ (i : Instr) (h : Hdr) (s t : State), readsOnly i = true → i.header = some h → Taken h s t →
     ∃ a, exec i s = .next (reply h a t) ∧ (readable t i → a.code = .ok)) ∧
   ∀ (h : Hdr) (k : Nat) (s t : State), Taken h s t →
     exec (.unknownRequest h k) s = .next (reply h (refuse .invalid) t)) ∧
  (∀ (h : Hdr) (s t : State), Taken h s t →
     let gives (i : Instr) (a : Answer) : Prop := exec i s = .next (reply h a t)
     let where' (f : Route → Bool) : List Nat := (List.range 1024).filter (fun n => (routeAt t n).any f)
     let slots : Prop := t.rt.routes.rising = true ∧ ∀ p ∈ t.rt.routes, p.1 < 1024
     (∀ src dst, src ≤ 100 → dst < 72 →
       (findKey t src dst = none → gives (.lookupRoute h src dst) (refuse .notfound)) ∧
       ∀ n r, findKey t src dst = some n → routeAt t n = some r → gives (.lookupRoute h src dst) (okWith (shownRoute t n r))) ∧
     (∀ n, n ≤ 1023 →
       (routeAt t n = none → gives (.readRoute h n) { refuse .notfound with data := shownFree t n }) ∧
       ∀ r, routeAt t n = some r → gives (.readRoute h n) (okWith (shownRoute t n r))) ∧
     (∀ dst start, dst < 72 → (∀ n ∈ start, n ≤ 1023) → slots →
       let all := where' (fun r => r.dst = dst)
       let rest := all.filter (fun n => start.getD 0 ≤ n)
       gives (.listRoutes h dst start)
         { okWith ([u2 all.length, u1 (rest.take 64).length] ++ (rest.take 64).map u2) with more := decide (64 < rest.length) }) ∧
     (∀ first count, 1 ≤ count → first + count ≤ 101 → gives (.readMeters h first count) (okWith
       (u1 count :: (List.range count).map (fun i => lev (t.le.meters.read .off (first + i))) ++ [u2 t.le.window]))) ∧
     gives (.readLevels h) (okWith (u1 69 :: (List.range 64 ++ [96, 97, 98, 99, 100]).map (fun n => s2 (t.le.trims.read 0 n)) ++
       u1 72 :: (List.range 72).flatMap (fun d => [lev (masterOf t d), u1 (dstSet t d)]))) ∧
     (∀ n, n ≤ 3 → gives (.readStatus h n) (okWith
       [u1 (if (setOf t n).mode = .limit then 0 else 1), u1 (if (setOf t n).rounding = .towardStart then 0 else 1),
         u1 (flagsCode (setOf t n).notify), u1 (flagsCode (setOf t n).flags)])) ∧
     (∀ k, k ≤ 7 → (t.ru.batches.find k = none → gives (.readBatch h k) (okWith [u1 0])) ∧
       ∀ b, t.ru.batches.find k = some b → gives (.readBatch h k) (okWith (shownBatch t b))) ∧
     (∀ l n c, l ≤ 3 → n ≤ 999999 → cueOf t l n = some c → gives (.readCue h l n false) (okWith (shownCue t l n c)) ∧
       ∀ m, t.cq.cues.rising = true → m ≤ n → (∀ k, m ≤ k → k < n → cueOf t l k = none) →
         gives (.readCue h l m true) (okWith (shownCue t l n c))) ∧
     (∀ l n, l ≤ 3 → (999999 < n ∨ cueOf t l n = none → gives (.readCue h l n false) (refuse .notfound)) ∧
       ((∀ k, n ≤ k → k ≤ 999999 → cueOf t l k = none) → gives (.readCue h l n true) (refuse .notfound))) ∧
     (∀ l, l ≤ 3 → gives (.readList h l) (okWith (shownList t l))) ∧
     gives (.readConditions h) (okWith (u1 32 :: (List.range 32).flatMap (fun c => [flag (condOf t c), flag (presetOf t c)]))) ∧
     (∀ id, id ≤ 511 → (clipOf t id = none → gives (.readClip h id) (refuse .notfound)) ∧
       ∀ c, clipOf t id = some c → gives (.readClip h id) (okWith (shownClip t id c))) ∧
     (∀ n, n ≤ 31 → gives (.readVoice h n) (okWith (shownVoice t n))) ∧
     (∀ m panel, m ≤ 31 → (∀ a, panel = some a ↔ a ≤ 32 ∧ (panelOf t a).enrolled = true ∧ (panelOf t a).mix = some m) →
       gives (.readMix h m) (okWith (shownMix t m panel
         ((List.range 101).filterMap (fun src => (findKey t src (24 + m)).bind (fun n => (routeAt t n).map (fun r => (n, r)))))))) ∧
     gives (.readPanels h) (okWith (u1 32 :: (List.range 32).flatMap (fun i => shownPanel t (i + 1)))) ∧
     (∀ z, z ≤ 14 → slots → gives (.readZone h z) (okWith (shownZone t z (where' (fun r => r.owner = .relay ∧ r.dst = 56 + z ∧ r.src ≠ 100))))) ∧
     (∀ id, id ≤ 16 → (callOf t id = none → gives (.readCall h id) { refuse .notfound with data := [u2 t.rl.seq] }) ∧
       ∀ c, (∀ z ∈ c.zones ++ c.routes, z < 15) → callOf t id = some c → gives (.readCall h id) (okWith (shownCall id c))) ∧
     (let calls := (t.rl.order ++ [16]).filterMap (fun i => (callOf t i).map (fun c => (i, c)))
      (∀ p ∈ calls, ∀ z ∈ p.2.zones ++ p.2.routes, z < 15) →
        gives (.readQueue h) (okWith (u1 calls.length :: calls.flatMap (fun p => shownCall p.1 p.2)))) ∧
     (∀ p, p ≤ 7 → gives (.readCallPreset h p) (okWith (shownPreset (callPresetOf t p)))) ∧
     gives (.readLinks h) (okWith (shownLinks t)) ∧ gives (.readContacts h) (okWith (shownContacts t)) ∧
     (∀ w, w ≤ 15 → gives (.readWatch h w) (okWith (shownWatch (watchOf t w)))) ∧
     (slots → gives (.readShowState h) (okWith (shownShow t (if t.ss.stopped = true then where' (fun r => r.owner = .showstop) else [])))) ∧
     gives (.readNotices h) (okWith (shownNotices t)) ∧
     gives (.readIdentity h) (okWith
       ([u2 5318, u2 (Config.revision % 65536)] ++ [1024, 944, 80, 64, 2048, 8192, 512, 32, 8, 16].map u2 ++ [u4 t.smp.size])) ∧
     ∀ i, (match i with
         | .lookupRoute _ src dst => 100 < src ∨ 71 < dst
         | .readRoute _ n => 1023 < n
         | .listRoutes _ dst start => 71 < dst ∨ ∃ n, start = some n ∧ 1023 < n
         | .readMeters _ first count => 100 < first ∨ count = 0 ∨ 101 < first + count
         | .readStatus _ n => 3 < n
         | .readBatch _ n => 7 < n
         | .readCue _ l _ _ => 3 < l
         | .readList _ l => 3 < l
         | .readClip _ n => 511 < n
         | .readVoice _ n => 31 < n
         | .readMix _ n => 31 < n
         | .readZone _ n => 14 < n
         | .readCall _ n => 16 < n
         | .readCallPreset _ n => 7 < n
         | .readWatch _ n => 15 < n
         | _ => False) → i.header = some h → gives i (refuse .invalid)) ∧
  (∀ (s : State) (n : Nat) (r : Route), (encodeFields (shownRoute s n r)).length = 54) ∧
  (∀ a : Action, (encodeFields (shownAction a)).length = 24) ∧
  ∀ (id : Nat) (c : Call), (encodeFields (shownCall id c)).length = 23

/-- R186 check 2, TABLE 11-2: every request of the desk alone is answered DENIED on port B and changes nothing. R178, TABLE 10-2: every guarded
request is refused LOCKED while the show is locked and the key released, and leaves every record as it was; SetLink, SetStatusControls and
SetOutputOwner are so refused whatever numbers they name (the order of those checks is the model's reading, log 30). -/
def Obligations.RequestsAreDeniedOrLocked : Prop :=
  (∀ (i : Instr) (h : Hdr) (s t : State), deskOnly i = true → i.header = some h → h.port = .b → Taken h s t →
     exec i s = .next (reply h (refuse .denied) t)) ∧
  (∀ (i : Instr) (h : Hdr) (s t : State), guarded t = true → guardedRequest t i → i.header = some h → h.port = .a → Taken h s t →
     exec i s = .next (reply h (refuse .locked) t))

/-! ## Routes, retirement, and plain settings -/

/-- R3, R5: handles and generations. A release advances the slot's generation by one, modulo 65536, and frees the slot; a reclaim or an adoption
advances none; a RetireRoute or an AmendRoute that names its route by handle and generation is refused INVALID, STALE or NOTFOUND in that order.
That an unknown curve of a RetireRoute is looked at after these (R58 gives no order) is the model's reading (log 30). -/
def Obligations.HandlesCarryGenerations : Prop :=
  (∀ (s : State) (n : Nat) (r : Route), routeAt s n = some r →
    routeAt (releaseRoute n s) n = none ∧ genOf (releaseRoute n s) n = (genOf s n + 1) % 65536 ∧
    ∀ m, m ≠ n → routeAt (releaseRoute n s) m = routeAt s m ∧ genOf (releaseRoute n s) m = genOf s m) ∧
  (∀ (s : State) (n m : Nat) (o : Owner), genOf (reclaim n s) m = genOf s m ∧ genOf (adopt n o s) m = genOf s m) ∧
  ∀ (h : Hdr) (n g : Nat) (i : Instr) (s t : State), h.port = .a → Taken h s t →
    ((∃ d c, i = .retireRoute h (.handle n g) d c) ∨ ∃ q : AmendArgs, i = .amendRoute h q ∧ q.route = .handle n g) →
    (1023 < n → exec i s = .next (reply h (refuse .invalid) t)) ∧
    (n ≤ 1023 → g ≠ genOf t n → exec i s = .next (reply h (refuse .stale) t)) ∧
    (n ≤ 1023 → g = genOf t n → routeAt t n = none → exec i s = .next (reply h (refuse .notfound) t))

/-- R1, R2, R12, R17: a PostRoute on an absent key creates a LIVE record in the lowest FREE handle, at the slot's generation. R7, R8, R9, R11, R12:
the refusals of a PostRoute on an absent key, each leaving the table as it was. R12, R13, R17 to R21: what AmendRoute, and PostRoute on a present
key, make of the record; every other route and every setting stands. The layout of a reply's payload is the model's choice (log 19). -/
def Obligations.RoutesArePostedAndAmended : Prop :=
  ((∀ (h : Hdr) (q : PostArgs) (s t : State) (n : Nat), h.port = .a → Taken h s t →
      q.src ≤ 100 → generalDst q.dst = true → ¬(q.src = 100 ∧ q.dst = 71) → (∀ x ∈ q.set, x ≤ 3) → (∀ f ∈ q.fade, f.curve ≤ 2) →
      findKey t q.src q.dst = none → q.src ≠ t.ss.stopSource → (isVoice q.src = true → (voiceOf t (q.src - 64)).state ≠ .free) →
      generalCount t < 944 → destCount t q.dst < 64 → n < 1024 → routeAt t n = none → (∀ m, m < n → (routeAt t m).isSome = true) →
      exec (.postRoute h q) s = .next (reply h
        (okAdj (decide (clampLevel q.level ≠ q.level) || q.fade.any (fun f => 600000 < f.dur)) [u2 n, u2 (genOf t n)])
        { t with rt := { t.rt with routes := (t.rt.routes.store n
            { state := .live, src := q.src, dst := q.dst, owner := .desk, base := if q.fade.isSome then .off else clampLevel q.level
              trim := 0, mute := false, duck := 0, set := q.set.getD 0, prot := q.prot.getD false
              fade := q.fade.map (fun f => ⟨.off, clampLevel q.level, min f.dur 600000, 0, (curveOf f.curve).getD .linear, .desk, none⟩)
              duckFade := none, batch := none, last := none }) } })) ∧
   (∀ (h : Hdr) (q : PostArgs) (s t : State), h.port = .a → Taken h s t →
      q.src ≤ 100 → q.dst < 72 → ¬(q.src = 100 ∧ q.dst = 71) → (∀ x ∈ q.set, x ≤ 3) → (∀ f ∈ q.fade, f.curve ≤ 2) →
      findKey t q.src q.dst = none →
      (generalDst q.dst = false → exec (.postRoute h q) s = .next (reply h (refuse .owned) t)) ∧
      (generalDst q.dst = true → q.src = t.ss.stopSource → exec (.postRoute h q) s = .next (reply h (refuse .reserved) t)) ∧
      (generalDst q.dst = true → q.src ≠ t.ss.stopSource → isVoice q.src = true → (voiceOf t (q.src - 64)).state = .free →
        exec (.postRoute h q) s = .next (reply h (refuse .invalid) t)) ∧
      (generalDst q.dst = true → q.src ≠ t.ss.stopSource → (isVoice q.src = true → (voiceOf t (q.src - 64)).state ≠ .free) →
        (944 ≤ generalCount t →
          exec (.postRoute h q) s = .next (reply h (refuse .full) (raise .routeFull (.key q.src q.dst) t))) ∧
        (generalCount t < 944 → 64 ≤ destCount t q.dst →
          exec (.postRoute h q) s = .next (reply h (refuse .destfull) (raise .destFull (.num q.dst) t)))))) ∧
  (∀ (h : Hdr) (s t : State) (n : Nat) (r : Route), h.port = .a → routeAt t n = some r → notDesks r.owner = false →
     (r.prot = true → guarded t = false) →
     (∀ q : AmendArgs, Taken h s t → resolveRef t q.route = .ok n → (ownedByCue r.owner = true → q.adopt = true) →
       badSet q.set = false → badFade q.fade = false →
       ∃ u, exec (.amendRoute h q) s = .next (reply h (okAdj (adjustedLevel q.level q.fade) [u2 n, u2 (genOf t n)]) u) ∧
         routeAt u n = some (amendedRoute (currentBase r) q.level q.fade q.set q.prot r) ∧ OnlyRoute n t u) ∧
     (∀ q : PostArgs, Taken h s t → findKey t q.src q.dst = some n → (ownedByCue r.owner = true → q.adopt = true) →
       srcOk q.src = true → dstOk q.dst = true → ¬(q.src = 100 ∧ q.dst = 71) → badSet q.set = false → badFade q.fade = false →
       ∃ u, exec (.postRoute h q) s = .next (reply h (okAdj (adjustedLevel (some q.level) q.fade) [u2 n, u2 (genOf t n)]) u) ∧
         routeAt u n = some (amendedRoute (currentBase r) (some q.level) q.fade q.set q.prot r) ∧ OnlyRoute n t u))

/-- R4, R50 to R52, R58: a RetireRoute on a LIVE record places it in the lowest joinable batch, else opens the lowest FREE one, else gives it a fade
to OFF of its own with BATCH-DEGRADED; on a RETIRING record it changes nothing. R59: RetireGroup makes every LIVE record of the group RETIRING and
leaves every other record; the counts account for the group. A batch is joinable where it is GATHERING with the retirement's key and fewer than 256
members. The layout of a reply's payload is the model's choice (log 19). -/
def Obligations.RetirementsPlaceTheirRecords : Prop :=
  (∀ (s : State) (k : Retirement),
     let fits (b : Nat) : Prop := b < 8 ∧ ∃ x, s.ru.batches.find b = some x ∧ x.phase = .gathering ∧ x.suspended = false ∧ x.dur = k.dur ∧
       x.curve = k.curve ∧ x.cls = k.cls ∧ x.members.length < 256
     (∀ b, joinable s k = some b ↔ fits b ∧ ∀ c, c < b → ¬fits c) ∧ (joinable s k = none ↔ ∀ b, ¬fits b) ∧
     (∀ b, freeBatch s = some b ↔ b < 8 ∧ s.ru.batches.find b = none ∧ ∀ c, c < b → s.ru.batches.find c ≠ none) ∧
     (freeBatch s = none ↔ ∀ b, b < 8 → s.ru.batches.find b ≠ none)) ∧
  (∀ (h : Hdr) (q : RouteRef) (d c : Option Nat) (s t : State) (n : Nat) (r : Route), h.port = .a → Taken h s t →
     resolveRef t q = .ok n → routeAt t n = some r → (∀ x ∈ c, x ≤ 2) → notDesks r.owner = false → (r.prot = true → guarded t = false) →
     let dur := min (d.getD 0) 600000
     let curve := (c.bind curveOf).getD .linear
     let key : Retirement := ⟨dur, curve, .other, .desk, none⟩
     let answer (b : Option Nat) : Answer :=
       { okAdj (decide (600000 < d.getD 0)) [u2 n, u2 (genOf t n), o1 b] with individual := b.isNone }
     (r.state = .retiring → exec (.retireRoute h q d c) s = .next (reply h (answer r.batch) t)) ∧
     (r.state = .live → ∃ u,
       OnlyRoute n t u ∧
       (∀ b x, joinable t key = some b → t.ru.batches.find b = some x →
         exec (.retireRoute h q d c) s = .next (reply h (answer (some b)) u) ∧
         routeAt u n = some { r with state := .retiring, batch := some b, base := currentBase r, fade := none } ∧
         u.ru.batches.find b = some { x with members := x.members ++ [⟨n, none, .off⟩] }) ∧
       (∀ b, joinable t key = none → freeBatch t = some b →
         exec (.retireRoute h q d c) s = .next (reply h (answer (some b)) u) ∧
         routeAt u n = some { r with state := .retiring, batch := some b, base := currentBase r, fade := none } ∧
         u.ru.batches.find b = some ⟨dur, curve, .other, .gathering, false, [⟨n, none, .off⟩], 0, t.ru.window, 0⟩) ∧
       (joinable t key = none → freeBatch t = none →
         exec (.retireRoute h q d c) s = .next (reply h (answer none) u) ∧
         routeAt u n = some { r with
           state := .retiring, batch := none, base := .step (levelNum (currentBase r))
           fade := some ⟨.step (levelNum (currentBase r)), .off, dur, 0, curve, .desk, none⟩ } ∧
         noticeOf u .batchDegraded = raisedNotice (.key r.src r.dst) (noticeOf t .batchDegraded)))) ∧
  (∀ (h : Hdr) (o : Nat) (dst d c : Option Nat) (s t : State) (w : Owner), h.port = .a → Taken h s t →
     t.rt.routes.rising = true → ownerOf o = some w → notDesks w = false → (∀ x ∈ dst, x < 72) → (∀ x ∈ c, x ≤ 2) →
     (guarded t = true → ∀ p ∈ groupOf t w dst, p.2.state = .live → p.2.prot = false) →
     ∃ u batched degraded,
       exec (.retireGroup h o dst d c) s = .next (reply h (okAdj (decide (600000 < d.getD 0))
         [u2 batched, u2 degraded, u2 ((groupOf t w dst).filter (fun p => p.2.state = .retiring)).length]) u) ∧
       batched + degraded = ((groupOf t w dst).filter (fun p => p.2.state = .live)).length ∧
       (∀ n r, routeAt t n = some r → r.owner = w → (∀ x ∈ dst, r.dst = x) → r.state = .live →
         ∃ r', routeAt u n = some r' ∧ r'.state = .retiring ∧ r'.src = r.src ∧ r'.dst = r.dst ∧ r'.owner = r.owner) ∧
       (∀ n r, routeAt t n = some r → (r.owner ≠ w ∨ (∃ x ∈ dst, r.dst ≠ x) ∨ r.state = .retiring) → routeAt u n = some r) ∧
       (∀ n, genOf u n = genOf t n) ∧ settings u = settings t)

/-- R54: a GATHERING batch whose window has expired begins to fade, each member from the base it holds. R56, R57: a FADING batch at its duration
releases its members and becomes FREE; every other record and batch stands. R37, R39, R52, R122: a fade that has reached its duration leaves its
record at the target; that of a degraded retirement releases the record. That a boundary's end is a command of its own is the model's choice (log
1). -/
def Obligations.BatchesAndFadesComplete : Prop :=
  ((∀ (s : State) (id : Nat) (b : Batch), id < 8 → s.ru.batches.find id = some b → b.phase = .gathering → 0 < b.count → b.window ≤ b.count →
     ∃ x, exec (.windowExpiry id) s = .next { rejoin 1 s with ru := { s.ru with batches := x } } ∧
       x.find id = some { b with
         phase := .fading, n := 0
         members := b.members.map (fun m => { m with start := ((routeAt s m.handle).map (·.base)).getD .off }) } ∧
       ∀ k, k ≠ id → x.find k = s.ru.batches.find k) ∧
   (∀ (s : State) (id : Nat) (b : Batch), id < 8 → s.ru.batches.find id = some b → b.phase = .fading → 0 < b.n → b.dur ≤ b.n →
     b.members ≠ [] → (b.members.map (·.handle)).Nodup → (∀ m ∈ b.members, ∃ r, routeAt s m.handle = some r ∧ r.batch = some id) →
     ∃ u, exec (.batchComplete id) s = .next u ∧ u.ru.batches.find id = none ∧
       (∀ m ∈ b.members, routeAt u m.handle = none ∧ genOf u m.handle = (genOf s m.handle + 1) % 65536) ∧
       (∀ n, n ∉ b.members.map (·.handle) → routeAt u n = routeAt s n ∧ genOf u n = genOf s n) ∧
       (∀ k, k ≠ id → u.ru.batches.find k = s.ru.batches.find k) ∧ settings u = settings s)) ∧
  ((∀ (s : State) (n : Nat) (r : Route) (f : BaseFade), n < 1024 → routeAt s n = some r → r.fade = some f → 0 < f.n → f.dur ≤ f.n →
     ∃ u, exec (.baseFadeComplete n) s = .next u ∧ settings u = settings s ∧ (∀ m, m ≠ n → routeAt u m = routeAt s m ∧ genOf u m = genOf s m) ∧
       (r.state = .live ∨ r.batch.isSome = true →
         routeAt u n = some { r with base := f.b, fade := none } ∧ genOf u n = genOf s n) ∧
       (r.state = .retiring → r.batch = none → routeAt u n = none ∧ genOf u n = (genOf s n + 1) % 65536)) ∧
   (∀ (s : State) (n : Nat) (r : Route) (f : DuckFade), n < 1024 → routeAt s n = some r → r.duckFade = some f → 0 < f.n → f.dur ≤ f.n →
     ∃ x, exec (.duckFadeComplete n) s = .next { rejoin 1 s with rt := { s.rt with routes := x } } ∧
       ∀ m, x.find m = if m = n then some { r with duck := f.b, duckFade := none } else routeAt s m) ∧
   ∀ (s : State) (n : Nat) (f : VoiceFade), n < 32 → (voiceOf s n).fade = some f → 0 < f.n → f.dur ≤ f.n → f.b ≠ .off →
     ∃ u, exec (.voiceFadeComplete n) s = .next u ∧ settings u = settings s ∧
       ∀ m, voiceOf u m = if m = n then { voiceOf s n with level := f.b, fade := none } else voiceOf s m)

/-- R27, R28, R44, R46: source trims, masters with their status sets, status controls and flag clears. R53, R74, R124: three settings that are
clamped, and taken at once. -/
def Obligations.LevelsWindowsAndRampsAreSet : Prop :=
  (∀ (h : Hdr) (s t : State), h.port = .a →
     (∀ w, Taken h s t →
       exec (.setRetireWindow h w) s = .next (reply h (okAdj (decide (200 < w)) []) { t with ru := { t.ru with window := min w 200 } })) ∧
     (∀ w, Taken h s t →
       exec (.setPauseRamp h w) s = .next (reply h (okAdj (decide (2000 < w)) []) { t with ve := { t.ve with pauseRamp := min w 2000 } })) ∧
     (∀ l g p, l ≤ 3 → Taken h s t →
       ∃ x, exec (.setListConfig h l g p) s = .next (reply h (okAdj (g.any (fun n => 2000 < n)) []) { t with cq := { t.cq with lists := x } }) ∧
         ∀ m, x.read CueList.init m = if m = l then { listOf t l with
           guard := (g.map (min · 2000)).getD (listOf t l).guard, promptGo := p.getD (listOf t l).promptGo } else listOf t m)) ∧
  (∀ (h : Hdr) (s t : State), h.port = .a →
     (∀ src trim, (src < 64 ∨ 96 ≤ src) → src ≤ 100 → Taken h s t →
       ∃ x, exec (.setSourceTrim h src trim) s = .next (reply h (okAdj (decide (trim < -256 ∨ 256 < trim)) [])
           { t with le := { t.le with trims := x } }) ∧
         ∀ k, x.read 0 k = if k = src then clampInt (-256) 256 trim else t.le.trims.read 0 k) ∧
     (∀ d v, d < 72 → (isFoldDst d = true → guarded t = false) → Taken h s t →
       ∃ x, exec (.setMaster h d v none) s = .next (reply h (okAdj (decide (clampLevel v ≠ v)) []) { t with le := { t.le with masters := x } }) ∧
         ∀ k, x.read (.step 0) k = if k = d then clampLevel v else masterOf t k) ∧
     (∀ d v n, d < 72 → n ≤ 3 → (isFoldDst d = true → guarded t = false) → Taken h s t →
       ∃ x y z, exec (.setMaster h d v (some n)) s = .next (reply h (okAdj (decide (clampLevel v ≠ v)) [])
           { t with le := { t.le with masters := x, dstSets := y }, rt := { t.rt with routes := z } }) ∧
         (∀ k, x.read (.step 0) k = if k = d then clampLevel v else masterOf t k) ∧
         (∀ k, y.read 0 k = if k = d then n else dstSet t k) ∧
         ∀ m, z.find m = (routeAt t m).map (fun r => if isFoldDst d = true ∧ r.dst = d then { r with set := n } else r)) ∧
     (∀ n c r m, guarded t = false → n ≤ 3 → (∀ x ∈ c, x ≤ 1) → (∀ x ∈ r, x ≤ 1) → Taken h s t →
       ∃ x, exec (.setStatusControls h n c r m) s = .next (reply h (okWith []) { t with le := { t.le with sets := x } }) ∧
         ∀ k, x.read StatusSet.init k = if k = n then
           { mode := (c.map (fun v => if v = 0 then ClampMode.limit else .hold)).getD (setOf t n).mode
             rounding := (r.map (fun v => if v = 0 then Rounding.towardStart else .nearest)).getD (setOf t n).rounding
             notify := (m.map flagsOf).getD (setOf t n).notify, flags := (setOf t n).flags } else setOf t k) ∧
     (∀ n m, n ≤ 3 → Taken h s t →
       ∃ x, exec (.clearStatus h n m) s = .next (reply h (okWith []) { t with le := { t.le with sets := x } }) ∧
         ∀ k, x.read StatusSet.init k = if k = n then { setOf t n with flags :=
           { clamp := (setOf t n).flags.clamp && !m.getLsbD 0, floor := (setOf t n).flags.floor && !m.getLsbD 1
             ceiling := (setOf t n).flags.ceiling && !m.getLsbD 2, ovr := (setOf t n).flags.ovr && !m.getLsbD 3 } } else setOf t k))

/-! ## Levels -/

/-- R33. -/
def Obligations.GainCodesFollowTheEffectiveLevel : Prop :=
  gainCode .off = 0 ∧
  (∀ e : Int, -1024 ≤ e → e ≤ 192 →
    let k := e / 64
    let m := e - 64 * k
    let g : Int := gainCode (.step e)
    0 ≤ m ∧ m ≤ 63 ∧ -16 ≤ k ∧ k ≤ 3 ∧ 16 ≤ g ∧ g ≤ 8388608 ∧
    (0 ≤ 14 + k → g = (64 + m) * 2 ^ (14 + k).toNat) ∧
    (14 + k < 0 → let d : Int := if k = -15 then 2 else 4
      2 * (d * g) ≤ 2 * (64 + m) + d ∧ 2 * (64 + m) + d < 2 * (d * g) + 2 * d)) ∧
  gainCode (.step (-1024)) = 16 ∧ gainCode (.step 192) = 8388608 ∧ gainCode (.step 0) = 1048576 ∧
  ∀ a b : Int, -1024 ≤ a → a ≤ b → b ≤ 192 → gainCode (.step a) ≤ gainCode (.step b)

/-- R35, R36: a running fade stands at its from level plus the exact offset of its curve, rounded by the control, and never outside its ends. R30 to
R32: the effective level of a record: OFF where a layer is; the sum where it lies within the bounds; OFF below -1024; above the upper bound, that
bound under LIMIT, and under HOLD the last effective level where it lies below it; always within -1024..+192, and under the ceiling into a mix.
R27, R29, R119, R122, R124, R125: the source term is the source's trim, or the clip's trim plus the voice's level, a rising or falling pause ramp
applied; a voice that a boundary has found to start counts as started (the model's choice, log 22). -/
def Obligations.LevelsFollowTheirFadesAndLayers : Prop :=
  (∀ (c : Curve) (m : Rounding) (a b : Level) (dur n : Nat), n < dur →
     let delta : ℚ := ((levelNum b - levelNum a : Int) : ℚ)
     let q : ℚ := match c with
       | .linear => delta * n / dur
       | .easeIn => delta * n ^ 2 / dur ^ 2
       | .easeOut => delta - delta * (dur - n) ^ 2 / dur ^ 2
     let r : Int := match m with
       | .towardStart => if 0 ≤ q then ⌊q⌋ else ⌈q⌉
       | .nearest => if 0 ≤ q then ⌊q + 1 / 2⌋ else ⌈q - 1 / 2⌉
     fadePoint c m a b dur n = levelNum a + r ∧
       min (levelNum a) (levelNum b) ≤ fadePoint c m a b dur n ∧ fadePoint c m a b dur n ≤ max (levelNum a) (levelNum b)) ∧
  (∀ (s : State) (src : Nat),
     (isVoice src = false → sourceTerm s src = .step (s.le.trims.read 0 src)) ∧
     ∀ n, n < 32 → src = 64 + n →
       let v := voiceOf s n
       let plain : Level := if v.starting = false then v.level
         else if v.fadeIn = 0 ∨ v.fadeIn = 1 then .step v.startLevel
         else .step (-1024 + (v.startLevel + 1024).tdiv v.fadeIn)
       let trim : Int := ((clipOf s v.clip).map (·.trim)).getD 0
       (plain = .off → sourceTerm s src = .off) ∧
       ∀ l : Int, plain = .step l →
         (v.ramp = none → sourceTerm s src = .step (l + trim)) ∧
         ∀ p, v.ramp = some p →
           (p.r < p.dur ∨ p.r = 0 → sourceTerm s src = .step (l + ((-1024 - l) * p.r).tdiv p.dur + trim)) ∧
           (0 < p.r → p.dur ≤ p.r → sourceTerm s src = .off)) ∧
  (∀ (s : State) (r : Route),
     (r.mute = true ∨ r.base = .off ∨ masterOf s r.dst = .off ∨ sourceTerm s r.src = .off → effectiveOf s r = ⟨.off, Flags.none⟩) ∧
     (∀ a b m : Int, sourceTerm s r.src = .step a → r.base = .step b → masterOf s r.dst = .step m → r.mute = false →
       let sum := a + b + r.trim + r.duck + m
       let bound := if isFoldDst r.dst then (mixOf s (r.dst - 24)).ceiling else 192
       (-1024 ≤ sum → sum ≤ bound → effectiveOf s r = ⟨.step sum, Flags.none⟩) ∧
       (sum < -1024 → sum ≤ bound → effectiveOf s r = ⟨.off, ⟨false, true, false, false⟩⟩) ∧
       (bound < sum → (setOf s r.set).mode = .limit →
         effectiveOf s r = ⟨.step bound, ⟨192 < sum, false, bound < 192 && sum ≤ 192, false⟩⟩) ∧
       (bound < sum → (setOf s r.set).mode = .hold →
         effectiveOf s r = ⟨.step (match r.last with | some (.step l) => min l bound | _ => bound),
           ⟨192 < sum, false, bound < 192 && sum ≤ 192, false⟩⟩)) ∧
     ((isFoldDst r.dst = true → -1024 ≤ (mixOf s (r.dst - 24)).ceiling ∧ (mixOf s (r.dst - 24)).ceiling ≤ 192) →
       (∀ l, r.last = some (.step l) → -1024 ≤ l) →
       (effectiveOf s r).level = .off ∨ ∃ n, (effectiveOf s r).level = .step n ∧ -1024 ≤ n ∧ n ≤ 192 ∧
         (isFoldDst r.dst = true → n ≤ (mixOf s (r.dst - 24)).ceiling)))

/-- R25, R26, R40 to R42, R115, R123: one sample period writes 72 saturated mixes and eight zeros, raises the peaks, plays every voice once, raises
UNDERRUN for each episode that begins, and changes nothing else but refill requests. A sample period past the forty-eighth of its frame mixes as the
forty-eighth did (the model's choice, log 23). The voices raise UNDERRUN in rising number, which decides its last subject (the model's choice, log
41). What the mixes and the voices compute: MixesReadTheirSources. -/
def Obligations.SamplePeriodMixesAndPlays : Prop :=
  ∀ (lanes : List Sample) (s : State),
    let j := min s.le.sample 47
    let x := sourceSample s lanes
    let tap := clampInt (-8388607) 8388607 (mixTotal s.le.crosspoints j x 71)
    let y := fun src => if src = 100 then tap else x src
    ∃ t, exec (.samplePeriod lanes) s = .next t ∧ t.le.outputs.length = 80 ∧
      (∀ d, d < 72 → t.le.outputs[d]? = some (clampInt (-8388607) 8388607 (mixTotal s.le.crosspoints j y d))) ∧
      (∀ d, 72 ≤ d → d < 80 → t.le.outputs[d]? = some 0) ∧
      (∀ d, d < 72 → t.le.overDsts.read false d =
        (s.le.overDsts.read false d || decide (mixTotal s.le.crosspoints j y d < -8388607 ∨ 8388607 < mixTotal s.le.crosspoints j y d))) ∧
      (∀ src, src ≤ 100 → t.le.peaks.read 0 src = max (s.le.peaks.read 0 src) (magnitude (y src))) ∧
      t.le.sample = min (s.le.sample + 1) 48 ∧
      (∀ n, n < 32 → voiceOf t n = playedVoice (voiceClip s (voiceOf s n)) (voiceOf s n)) ∧
      noticeOf t .underrun = ((List.range 32).filter (fun n => consumes (voiceOf s n) && !(voiceOf s n).atEnd && (voiceOf s n).buffer.isEmpty &&
        !(voiceOf s n).inUnderrun)).foldl (fun x n => raisedNotice (.num n) x) (noticeOf s .underrun) ∧
      (∀ k, k ≠ .underrun → noticeOf t k = noticeOf s k) ∧
      t = { s with
        le := { s.le with outputs := t.le.outputs, overDsts := t.le.overDsts, peaks := t.le.peaks, sample := t.le.sample }
        ve := { s.ve with voices := t.ve.voices }
        smp := { s.smp with requests := t.smp.requests, write := t.smp.write, transfer := t.smp.transfer, pointers := t.smp.pointers }
        nt := { s.nt with kinds := t.nt.kinds } }

/-- R25, R40, R115, R120, R123: the samples that sources give, the total into a destination with each crosspoint's gain interpolated over the frame,
and what one sample period makes of a voice: the head of its buffer, or an underrun, and the position moved on through its loop. -/
def Obligations.MixesReadTheirSources : Prop :=
  (∀ (s : State) (lanes : List Sample) (src : Nat),
    (src < 64 → sourceSample s lanes src = (lanes.getD src 0).toInt) ∧
    (96 ≤ src → src < 100 → sourceSample s lanes src = (lanes.getD (src - 32) 0).toInt) ∧
    ∀ n, n < 32 → src = 64 + n →
      let v := voiceOf s n
      let plays : Prop := (v.state = .playing ∨ v.state = .stopping ∨ v.state = .pausing) ∧ v.atEnd = false
      (plays → sourceSample s lanes src = (v.buffer.head?.map (·.toInt)).getD 0) ∧ (¬plays → sourceSample s lanes src = 0)) ∧
  (∀ (t : Table Crosspoint) (j : Nat) (x : Nat → Int) (d : Nat), j < 48 → d < 72 → t.rising = true → (∀ p ∈ t, p.1 < 101 * 72) →
    mixTotal t j x d = ⌊((((List.range 101).map (fun src =>
      let c := t.read Crosspoint.init (crossKey src d)
      x src * ((c.inForce * (47 - j) + c.written * (j + 1) : Nat) : Int))).sum : Int) : ℚ) / (48 * 2 ^ 20)⌋) ∧
  ∀ (c : Clip) (v : Voice),
    let w := playedVoice c v
    ((v.state ≠ .playing ∧ v.state ≠ .stopping ∧ v.state ≠ .pausing) ∨ v.atEnd = true → w = v) ∧
    (v.state = .playing ∨ v.state = .stopping ∨ v.state = .pausing → v.atEnd = false →
      (∀ y rest, v.buffer = y :: rest → { w with pos := v.pos, phase := v.phase, atEnd := v.atEnd } =
        { v with buffer := rest, play := v.play + 1, inUnderrun := false }) ∧
      (v.buffer = [] → { w with pos := v.pos, phase := v.phase, atEnd := v.atEnd } =
        { v with play := v.play + 1, fetch := v.fetch + 1, inUnderrun := true
                 underruns := if v.inUnderrun = true then v.underruns else min (v.underruns + 1) 255 }) ∧
      (v.mode = .once ∨ c.loop = none ∨ v.phase = .tail →
        w.pos = v.pos + 1 ∧ w.phase = v.phase ∧ w.atEnd = decide (c.len ≤ v.pos + 1)) ∧
      ∀ a e, v.mode ≠ .once → c.loop = some (a, e) →
        (v.phase = .before → w.pos = v.pos + 1 ∧ w.phase = (if a ≤ v.pos + 1 then .inLoop else .before) ∧ w.atEnd = false) ∧
        (v.phase = .inLoop → v.pos + 1 < e → w.pos = v.pos + 1 ∧ w.phase = .inLoop ∧ w.atEnd = false) ∧
        (v.phase = .inLoop → e ≤ v.pos + 1 → v.exitPending = false → w.pos = a ∧ w.phase = .inLoop ∧ w.atEnd = false) ∧
        (v.phase = .inLoop → e ≤ v.pos + 1 → v.exitPending = true → w.pos = e ∧ w.phase = .tail ∧ w.atEnd = decide (c.len ≤ e)))

/-! ## The frame boundary, and what its windows bring due -/

/-- R34 steps 1 and 2, R35, R37 to R39: at a boundary the base fade of a record in no batch advances by one frame, unless it is of CUE origin and
the show is stopped, and its duck fade by one; the base and the duck stand where the fades give them, at their targets once reached. R34 steps 3 and
4, R40: every crosspoint takes the gain code written to it before as the one in force, and is written the code of its record's last effective level,
or 0 where no record is in use. That a boundary's end is a command of its own is the model's choice (log 1), and so is the code that a boundary in
mid-frame, where the word clock stopped, ramps from (log 45), and that a crosspoint whose record was replaced since the last boundary ramps from the
old record's code (log 49). -/
def Obligations.FrameBoundaryAdvancesFadesAndGains : Prop :=
  (∀ (s : State) (n : Nat) (r : Route), routeAt s n = some r → r.batch = none →
     ∃ t r', exec .frameBoundary s = .next t ∧ routeAt t n = some r' ∧
       { r' with base := r.base, fade := r.fade, duck := r.duck, duckFade := r.duckFade, last := r.last } = r ∧
       (r.fade = none → r'.fade = none ∧ r'.base = r.base) ∧
       (∀ f, r.fade = some f → (s.ss.stopped = false ∨ ∀ l, f.origin ≠ .cue l) →
         let k := if 0 < f.n ∧ f.dur ≤ f.n then f.n else f.n + 1
         r'.fade = some { f with n := k } ∧
         r'.base = if f.dur ≤ k then f.b else .step (fadePoint f.curve (setOf s r.set).rounding f.a f.b f.dur k)) ∧
       (∀ f l, r.fade = some f → s.ss.stopped = true → f.origin = .cue l → r'.fade = some f ∧
         r'.base = if f.n = 0 then f.a else if f.dur ≤ f.n then f.b
           else .step (fadePoint f.curve (setOf s r.set).rounding f.a f.b f.dur f.n)) ∧
       (r.duckFade = none → r'.duckFade = none ∧ r'.duck = r.duck) ∧
       (∀ f, r.duckFade = some f →
         let k := if 0 < f.n ∧ f.dur ≤ f.n then f.n else f.n + 1
         r'.duckFade = some { f with n := k } ∧ r'.duck = if f.dur ≤ k then f.b else f.a + ((f.b - f.a) * k).tdiv f.dur)) ∧
  (∀ s : State, s.rt.routes.rising = true → s.le.crosspoints.rising = true →
     (∀ p ∈ s.rt.routes, ∀ q ∈ s.rt.routes, p.2.src = q.2.src → p.2.dst = q.2.dst → p = q) → (∀ p ∈ s.rt.routes, p.2.dst < 72) →
     ∃ t, exec .frameBoundary s = .next t ∧
       (∀ src dst, findKey t src dst = findKey s src dst) ∧ (∀ n, (routeAt t n).isSome = (routeAt s n).isSome) ∧
       (∀ n r, routeAt t n = some r → r.last.isSome = true) ∧
       ∀ src dst, dst < 72 → t.le.crosspoints.read Crosspoint.init (crossKey src dst) =
         ⟨(s.le.crosspoints.read Crosspoint.init (crossKey src dst)).written,
           gainCode (((findKey s src dst).bind (fun n => (routeAt t n).bind (·.last))).getD .off)⟩)

/-- R34 step 1, R54, R55, R60: at a boundary the window count of a GATHERING batch and the count of a FADING one rise by one, those of a suspended
batch do not, and a member stands at the level its batch's curve gives it from the level it began at. R119, R122, R124 to R126: the starts and ends
of voices are marked, a voice fade advances while its voice plays and the show runs, and a pause ramp moves its way. That a boundary's end is a
command of its own is the model's choice (log 1). -/
def Obligations.FrameBoundaryAdvancesBatchesAndVoices : Prop :=
  ∀ s : State, s.ve.voices.rising = true → ∃ t, exec .frameBoundary s = .next t ∧
    t.ru.window = s.ru.window ∧
    (∀ k, t.ru.batches.find k = (s.ru.batches.find k).map (fun b =>
      if b.suspended = true then b
      else if b.phase = .gathering then { b with count := if 0 < b.count ∧ b.window ≤ b.count then b.count else b.count + 1 }
      else { b with n := if 0 < b.n ∧ b.dur ≤ b.n then b.n else b.n + 1 })) ∧
    (∀ n r k b m, routeAt s n = some r → r.batch = some k → t.ru.batches.find k = some b → m ∈ b.members → m.handle = n →
      (b.members.map (·.handle)).Nodup →
      ∃ r', routeAt t n = some r' ∧
        { r' with base := r.base, duck := r.duck, duckFade := r.duckFade, last := r.last } = r ∧
        r'.base = match b.phase, m.start with
          | .gathering, _ => r.base
          | .fading, .off => .off
          | .fading, .step v => if b.n = 0 then .step v else if b.dur ≤ b.n then .off
              else .step (fadePoint b.curve (setOf s r.set).rounding (.step v) .off b.dur b.n)) ∧
    ∀ n,
      let v := voiceOf s n
      let w := voiceOf t n
      { w with starting := v.starting, ending := v.ending, fade := v.fade, level := v.level, ramp := v.ramp } = v ∧
      (w.starting = true ↔ v.state = .primed ∧ (v.startDue = true ∨ v.startAligned = true) ∧
        (s.ss.stopped = false ∨ ∃ c, v.claimant = some (.call c))) ∧
      w.ending = v.atEnd ∧
      (v.fade = none ∨ (v.state ≠ .playing ∧ v.state ≠ .stopping) ∨ s.ss.stopped = true → w.fade = v.fade ∧ w.level = v.level) ∧
      (∀ f, v.fade = some f → v.state = .playing ∨ v.state = .stopping → s.ss.stopped = false →
        let k := if 0 < f.n ∧ f.dur ≤ f.n then f.n else f.n + 1
        w.fade = some { f with n := k } ∧ w.level = if f.dur ≤ k then f.b else .step (fadePoint .linear .towardStart f.a f.b f.dur k)) ∧
      (v.ramp = none → w.ramp = none) ∧
      ∀ p, v.ramp = some p → w.ramp = some (
        if p.up = true then { p with r := p.r - 1 }
        else if v.state = .pausing then { p with r := if 0 < p.r ∧ p.dur ≤ p.r then p.r else p.r + 1 } else p)

/-- R42, R74, R80, R83, R158, R168, R169: the frame counts at a boundary: the meter window, the timers, the frames since a list's GO, its counting
trigger while the show runs, the waits of QUEUED calls, and the counts of the contact inputs with the changes they let through. The boundary is one
cause (log 4), and but for routes, voices, batches, levels and notices nothing else changes. The waits of calls without a max wait are not counted
(the model's reading, log 28). That a boundary's end is a command of its own is the model's choice (log 1). -/
def Obligations.FrameBoundaryAdvancesCounts : Prop :=
  ∀ s : State, s.cq.lists.rising = true → s.ef.inputs.rising = true → ∃ t, exec .frameBoundary s = .next t ∧
    t = { s with
      rt := t.rt, ru := t.ru, ve := { s.ve with voices := t.ve.voices }, nt := { s.nt with kinds := t.nt.kinds }
      le := { s.le with
        sets := t.le.sets, crosspoints := t.le.crosspoints, overDsts := [], sample := 0
        window := (s.le.window + 1) % 10, windowDue := s.le.windowDue || decide ((s.le.window + 1) % 10 = 0) }
      cq := { s.cq with lists := t.cq.lists }, rl := { s.rl with calls := t.rl.calls }
      ef := { s.ef with
        inputs := t.ef.inputs, timers := t.ef.timers, events := awaited s
        causes := s.ef.causes + 1, cause := s.ef.causes + 1, boundary := s.ef.causes + 1, depth := 1 } } ∧
    (∀ k, timerOf t k = if k < 4 then timerOf s k + 1 else timerOf s k) ∧
    (∀ l, listOf t l = { listOf s l with
      sinceGo := (listOf s l).sinceGo.map (fun n => min (n + 1) 65535)
      trigger := (listOf s l).trigger.map (fun p => match p.phase with
        | .awaiting _ => p
        | .counting c => if s.ss.stopped = true then p else
          let k := if 0 < c ∧ p.delay ≤ c then c else c + 1
          { p with phase := .counting k, due := decide (p.delay ≤ k) }) }) ∧
    (∀ k, callOf t k = (callOf s k).map (fun c =>
      if c.active = false ∧ 0 < c.maxWait then { c with wait := min (c.wait + 1) c.maxWait } else c)) ∧
    ∀ i,
      let c := inputOf s i
      let up := c.sinceRise.map (fun n => min (n + 1) 250)
      let down := c.sinceFall.map (fun n => min (n + 1) 250)
      inputOf t i = { c with
        sinceRise := up, sinceFall := down
        settleDue := c.waiting && decide (c.raw ≠ c.settled) &&
          (!c.limiter || decide (∀ n ∈ (if c.raw = true then up else down), c.settle ≤ n)) }

/-- R34 step 3, R41, R45: at a boundary every record takes its effective level as its last one; each status set takes the flags that its records and
the saturated destinations met, and raises one STATUS where a flag newly set has its notify bit on. Where several sets raise it they do so in rising
number, LS0 to LS3, which decides its last subject (the model's choice, log 43). -/
def Obligations.FrameBoundarySetsStatusFlags : Prop :=
  ∀ s : State, RecordsOrdered s → ∃ t, exec .frameBoundary s = .next t ∧
    (∀ h r, routeAt s h = some r → ∃ r', routeAt t h = some r' ∧ r'.set = r.set ∧
      r'.last = some (effectiveOf t { r' with last := r.last }).level) ∧
    (∀ n, n ≤ 3 → ∃ met : Flags,
      setOf t n = { setOf s n with flags := ⟨(setOf s n).flags.clamp || met.clamp, (setOf s n).flags.floor || met.floor,
        (setOf s n).flags.ceiling || met.ceiling, (setOf s n).flags.ovr || met.ovr⟩ } ∧
      (let by' (flag : Flags → Bool) : Prop := ∃ h r r', routeAt s h = some r ∧ routeAt t h = some r' ∧ r.set = n ∧
          flag (effectiveOf t { r' with last := r.last }).flags = true
       (met.clamp = true ↔ by' (·.clamp)) ∧ (met.floor = true ↔ by' (·.floor)) ∧ (met.ceiling = true ↔ by' (·.ceiling))) ∧
      (met.ovr = true ↔ ∃ d, s.le.overDsts.read false d = true ∧ dstSet s d = n)) ∧
    (∀ n, 3 < n → setOf t n = setOf s n) ∧
    (let newly (n : Nat) (flag : Flags → Bool) : Bool := flag (setOf t n).flags && !flag (setOf s n).flags && flag (setOf s n).notify
     noticeOf t .status = ((List.range 4).filter (fun n => newly n (·.clamp) || newly n (·.floor) || newly n (·.ceiling) || newly n (·.ovr))).foldl
       (fun x n => raisedNotice (.num n) x) (noticeOf s .status)) ∧
    ∀ k, k ≠ .status → noticeOf t k = noticeOf s k

/-- R42: a window that has ended sets every meter from its peak. R168: a timer at its period returns and emits its event. That a boundary's end is a
command of its own is the model's choice (log 1). -/
def Obligations.MeterWindowsAndTimersEnd : Prop :=
  (∀ s : State, s.le.windowDue = true → s.le.peaks.rising = true →
    ∃ x, exec .meterWindow s = .next { s with le := { s.le with meters := x, peaks := [], windowDue := false } } ∧
      ∀ src, (s.le.peaks.read 0 src = 0 → x.read .off src = .off) ∧
        ∀ e : Nat, 2 ^ e ≤ s.le.peaks.read 0 src → s.le.peaks.read 0 src < 2 ^ (e + 1) →
          x.read .off src = .step (64 * ((e : Int) - 23) + (((s.le.peaks.read 0 src - 2 ^ e) * 64 / 2 ^ e : Nat) : Int))) ∧
  ∀ (s : State) (n : Nat), n < 4 →
    let period := if n = 0 then 10 else if n = 1 then 100 else if n = 2 then 1000 else 60000
    period ≤ timerOf s n →
    ∃ x, exec (.timerPeriod n) s = .next { s with ef := { s.ef with
          timers := x, cause := s.ef.boundary, depth := 1
          events := s.ef.events ++ [⟨64 + n, 1, s.ef.boundary, []⟩] } } ∧
      ∀ k, x.read 0 k = if k = n then timerOf s n - period else timerOf s k

/-! ## Cue lists -/

/-- R63, R64: a cue is posted where its number is absent; an EMPTY list makes it the standby. R65: a cue that is present is replaced, with no
outcome; the standby gets a fresh start. R66: a cue is retired, and the pointer of a list whose standby it was moves to the next cue. R69, R71:
SetStandby makes a cue the standby, with no pending trigger, and changes no other list's standby; on the present standby it changes nothing, and its
reply carries the state byte there too (the model's choice, log 33). The layout of a reply's payload is the model's choice (log 19). -/
def Obligations.CuesAndStandbysAreSet : Prop :=
  ((∀ (h : Hdr) (c : CueArgs) (s t : State), h.port = .a → Taken h s t → badCue c = false → badActions c.actions = false →
      cueOf t c.list c.number = none → cueCount t < 2048 → actionCount t + c.actions.length ≤ 8192 →
      ∃ u, exec (.postCue h c) s = .next (reply h (okAdj (cueAdjusted c)
          [u1 c.list, u4 c.number, u2 (cueCount t + 1), u2 (actionCount t + c.actions.length)]) u) ∧
        (∀ k, u.cq.cues.find k = if k = cueKey c.list c.number then
          some ⟨triggerOf c.trigger c.eventId, min c.delay 600000, c.qual, c.hint == 1, c.prot, c.actions.map postedAction, none⟩
          else t.cq.cues.find k) ∧
        ((listOf t c.list).state ≠ .empty → u = { t with cq := { t.cq with cues := u.cq.cues } }) ∧
        ((listOf t c.list).state = .empty → (listOf u c.list).standby = some c.number ∧
          ((listOf u c.list).state = .preloading ∨ (listOf u c.list).state = .primed)) ∧
        settings u = settings t) ∧
   ((∀ (h : Hdr) (c : CueArgs) (s t : State) (old : Cue), h.port = .a → Taken h s t → badCue c = false →
      badActions c.actions = false → cueOf t c.list c.number = some old → (old.prot = true → guarded t = false) →
      actionCount t - old.actions.length + c.actions.length ≤ 8192 →
      ∃ u, exec (.replaceCue h c) s = .next (reply h (okAdj (cueAdjusted c) []) u) ∧
        (∀ k, u.cq.cues.find k = if k = cueKey c.list c.number then
          some ⟨triggerOf c.trigger c.eventId, min c.delay 600000, c.qual, c.hint == 1, c.prot, c.actions.map postedAction, none⟩
          else t.cq.cues.find k) ∧
        ((listOf t c.list).standby ≠ some c.number → u = { t with cq := { t.cq with cues := u.cq.cues } }) ∧
        ((listOf t c.list).standby = some c.number → (listOf u c.list).standby = some c.number ∧ (listOf u c.list).trigger = none ∧
          ((listOf u c.list).state = .preloading ∨ (listOf u c.list).state = .primed)) ∧
        settings u = settings t) ∧
    ∀ (h : Hdr) (l n : Nat) (s t : State) (c : Cue), h.port = .a → Taken h s t → l ≤ 3 → n ≤ 999999 →
      cueOf t l n = some c → (c.prot = true → guarded t = false) →
      ∃ u, exec (.retireCue h l n) s = .next (reply h (okWith []) u) ∧
        (∀ k, u.cq.cues.find k = if k = cueKey l n then none else t.cq.cues.find k) ∧
        ((listOf t l).standby = some n → (listOf u l).standby = cueFrom u l (n + 1)) ∧
        ((listOf t l).standby = some n → cueFrom u l (n + 1) = none →
          (listOf u l).state = if (cuesOf u l).isEmpty then .empty else .ended) ∧
        ((listOf t l).standby ≠ some n → (listOf u l).standby = (listOf t l).standby) ∧
        (∀ m, m ≠ l → fixedOf (listOf u m) = fixedOf (listOf t m)) ∧ settings u = settings t)) ∧
  (∀ (h : Hdr) (l n : Nat) (s t : State), h.port = .a → Taken h s t → l ≤ 3 → n ≤ 999999 → (cueOf t l n).isSome = true →
     ((listOf t l).standby = some n →
       exec (.setStandby h l n) s = .next (reply h (okWith [u1 (listStateCode (listOf t l).state)]) t)) ∧
     ((listOf t l).standby ≠ some n → ∃ u,
       exec (.setStandby h l n) s = .next (reply h (okWith [u1 (if (listOf u l).state = .primed then 2 else 1)]) u) ∧
       (listOf u l).standby = some n ∧ (listOf u l).trigger = none ∧ ((listOf u l).state = .preloading ∨ (listOf u l).state = .primed) ∧
       (listOf u l).takes = (listOf t l).takes ∧ (listOf u l).sinceGo = (listOf t l).sinceGo ∧
       (∀ m, m ≠ l → fixedOf (listOf u m) = fixedOf (listOf t m)) ∧ u.cq.cues = t.cq.cues ∧ settings u = settings t))

/-- R72 to R77, R79 to R82, R86: a GO, by request, by GO link or by a trigger that has come due, takes the standby cue: what the list, its running
record, the armed trigger, the events and the notices then are stands in `CueTaken`, and the late mark of the reply is that of the outcome. R73,
R74: the refusals of a GO by hand, each taking nothing. For a cue with a false qualifier the reply carries no take number (the model's reading, log
31). A GO's record completes at the GO's end at the soonest (log 13), and its label map is listed in rising voice number (log 32). A skipped PLAY's voice does not mark
the outcome adjusted (the model's reading, log 50). The layout of a
reply's payload is the model's choice (log 19). That a boundary's end is a command of its own is the model's choice (log 1). How an event in flight
is kept and taken is the model's reading (log 4). -/
def Obligations.GosTakeTheStandbyCue : Prop :=
  ((∀ (h : Hdr) (l n : Nat) (c : Cue) (s t : State), Taken h s t → l ≤ 3 → (h.port = .b → (listOf t l).promptGo = true) →
     t.ss.stopped = false → standbyCue t l = some (n, c) → GuardPassed (listOf t l) →
     ∃ u o, exec (.go h l) s = .next (reply h { okWith [u4 n, o4 (if condOf t c.qual then some (listOf t l).takes else none)] with
         late := o.late } u) ∧ CueTaken l n c o t u) ∧
   (∀ (l n : Nat) (e : InFlight) (c : Cue) (s t : State), Delivered (.go l) e s t → l ≤ 3 → t.ss.stopped = false →
     standbyCue t l = some (n, c) → GuardPassed (listOf t l) → ∃ u o, exec (.goLink l) s = .next u ∧ CueTaken l n c o t u) ∧
   ∀ (l n : Nat) (p : Pending) (c : Cue) (s : State), l ≤ 3 → (listOf s l).trigger = some p → p.due = true → s.ss.stopped = false →
     standbyCue s l = some (n, c) →
     ∃ u o, exec (.triggerDue l) s = .next u ∧ CueTaken l n c o (rejoin (match p.kind with | .event d => d + 1 | _ => 1) s) u) ∧
  (∀ (h : Hdr) (l : Nat) (s t : State), Taken h s t →
     (3 < l → exec (.go h l) s = .next (reply h (refuse .invalid) t)) ∧
     (l ≤ 3 → h.port = .b → (listOf t l).promptGo = false → exec (.go h l) s = .next (reply h (refuse .denied) t)) ∧
     (l ≤ 3 → (h.port = .b → (listOf t l).promptGo = true) →
       (t.ss.stopped = true → exec (.go h l) s = .next (reply h (refuse .held) t)) ∧
       (t.ss.stopped = false → (listOf t l).standby = none → exec (.go h l) s = .next (reply h (refuse .nostandby) t)) ∧
       (t.ss.stopped = false → (listOf t l).standby ≠ none → (∃ n ∈ (listOf t l).sinceGo, n < (listOf t l).guard) →
         exec (.go h l) s = .next (reply h (refuse .ignored) (raise .goIgnored (.num l) t)))))

/-- R84, R79, R85, R77 step 5: a fade that ends or leaves its account, a late start settled, and the end of a GO, each followed by the completion
test; a fade or late start of no account, or of a record no longer present, changes nothing. The record of a GO still in progress is kept back until
the GO's end (the model's reading, log 13). What is counted in a base fade ends with it, and what is counted in a late start with the start. That a
boundary's end is a command of its own is the model's choice (log 1). -/
def Obligations.SettlementsCompleteRunningRecords : Prop :=
  (∀ s : State, settle none s = s) ∧
  (∀ (b : StartedBy) (s : State),
    Tested b.list b.take ((listOf s b.list).running.map (fun r => if r.take = b.take then { r with fades := r.fades - 1 } else r)) s
      (settle (some b) s)) ∧
  (∀ (l k : Nat) (s : State),
    Tested l k ((listOf s l).running.map (fun r => if r.take = k then { r with late := r.late - 1 } else r)) s (settleLate l k s) ∧
    Tested l k ((listOf s l).running.map (fun r => if r.take = k then { r with taking := false } else r)) s (finishTaking l k s)) ∧
  (∀ (s : State) (n : Nat) (r : Route) (f : BaseFade) (b : StartedBy), n < 1024 → routeAt s n = some r → r.fade = some f → 0 < f.n →
    f.dur ≤ f.n → f.startedBy = some b → r.state = .live →
    ∃ u, exec (.baseFadeComplete n) s = .next u ∧
      Tested b.list b.take ((listOf s b.list).running.map (fun r => if r.take = b.take then { r with fades := r.fades - 1 } else r))
        { rejoin 1 s with rt := u.rt } u) ∧
  ∀ (s : State) (n l k x : Nat), n < 32 → (voiceOf s n).starting = true → startsNow s.ss.stopped (voiceOf s n) = true →
    (voiceOf s n).startDue = true → (voiceOf s n).claimant = some (.running l k x) →
    ∃ u, exec (.voiceStart n) s = .next u ∧
      Tested l k ((listOf s l).running.map (fun r => if r.take = k then { r with late := r.late - 1 } else r))
        { rejoin 1 s with ve := u.ve, smp := u.smp } u

/-! ## Cue actions -/

/-- R93 to R95: what a ROUTE action makes of the route table: the refusals of its source, a present record taken over, an absent one created or
refused by the capacities; and a RETIRE action of one key, of a destination or of all its list's records. Each fade they start, and each LIVE record
they retire, is counted to their GO. -/
def Obligations.RouteActionsActOnTheTable : Prop :=
  (∀ (g : GoContext) (n : Nat) (s : State),
    (isVoice n = true → (voiceOf s (n - 64)).state = .free → resolveSource s g (.num n) = .error .novoice) ∧
    ((isVoice n = true → (voiceOf s (n - 64)).state ≠ .free) → resolveSource s g (.num n) = if n = s.ss.stopSource then .error .reserved else .ok n) ∧
    (labelVoice s g n = none → resolveSource s g (.label n) = .error .novoice) ∧
    (∀ v, labelVoice s g n = some v → resolveSource s g (.label n) = resolveSource s g (.num (64 + v)))) ∧
  (∀ (g : GoContext) (src : SrcArg) (dst : Nat) (level : Level) (fade : Option FadeArg) (set : Option Nat) (prot : Option Bool) (s : State),
    let act := runAction g (.route src dst level fade set prot) s
    (∀ c, resolveSource s g src = .error c → act = (s, .failed c)) ∧
    (∀ n h r, resolveSource s g src = .ok n → findKey s n dst = some h → routeAt s h = some r →
      act.2 = .done false false ∧ OnlyRoute h s act.1 ∧ act.1.cq.cues = s.cq.cues ∧
      routeAt act.1 h = some (takenOver g.list (goBy g) level fade set prot r) ∧
      (r.state = .live → (∀ f, r.fade = some f → f.startedBy = none) → Counted g fade.isSome.toNat 0 s act.1)) ∧
    (∀ n, resolveSource s g src = .ok n → findKey s n dst = none →
      (944 ≤ generalCount s → act = (raise .routeFull (.key n dst) s, .failed .full)) ∧
      (generalCount s < 944 → 64 ≤ destCount s dst → act = (raise .destFull (.num dst) s, .failed .destfull)) ∧
      (∀ h, generalCount s < 944 → destCount s dst < 64 → h < 1024 → routeAt s h = none → (∀ m, m < h → (routeAt s m).isSome = true) →
        ∃ x, act = ({ s with
            rt := { s.rt with
              routes := s.rt.routes.store h
                  { state := .live, src := n, dst := dst, owner := .cue g.list, base := if fade.isSome then .off else level
                    trim := 0, mute := false, duck := 0, set := set.getD 0, prot := prot.getD false
                    fade := fade.map (fun f => ⟨.off, level, min f.dur 600000, 0, (curveOf f.curve).getD .linear, .cue g.list, some (goBy g)⟩)
                    duckFade := none, batch := none, last := none } }
            cq := { s.cq with lists := x } }, .done false false) ∧ Counted g fade.isSome.toNat 0 s act.1))) ∧
  ∀ (g : GoContext) (f : FadeArg) (s : State),
    (let retired (r : Route) (h : Nat) (u : State) : Prop := ∃ r', routeAt u h = some r' ∧ r'.state = .retiring ∧
        { r' with state := r.state, base := r.base, fade := r.fade, batch := r.batch } = r ∧
        (∀ b, r'.batch = some b → ∃ x, u.ru.batches.find b = some x ∧ x.cls = .cue ∧ x.dur = min f.dur 600000 ∧
          ⟨h, some (goBy g), .off⟩ ∈ x.members) ∧
        (r'.batch = none → ∃ y, r'.fade = some y ∧ y.b = .off ∧ y.dur = min f.dur 600000 ∧ y.startedBy = some (goBy g))
     (∀ src dst, findKey s src dst = none → runAction g (.retire (.key src dst) f) s = (s, .failed .notfound)) ∧
     (∀ src dst h r, findKey s src dst = some h → routeAt s h = some r →
       let act := runAction g (.retire (.key src dst) f) s
       act.2 = .done false false ∧ OnlyRoute h s act.1 ∧
       (r.state = .retiring → act.1 = s) ∧
       (r.state = .live → retired r h act.1 ∧ ((∀ y, r.fade = some y → y.startedBy = none) → Counted g 1 0 s act.1))) ∧
     ∀ t, s.rt.routes.rising = true → (t = .all ∨ ∃ d, t = .dest d) →
       let act := runAction g (.retire t f) s
       let named (r : Route) : Prop := r.owner = .cue g.list ∧ r.state = .live ∧ ∀ d, t = .dest d → r.dst = d
       act.2 = .done false false ∧ settings act.1 = settings s ∧ (∀ h, genOf act.1 h = genOf s h) ∧
       (∀ h r, routeAt s h = some r → (named r → retired r h act.1) ∧ (¬named r → routeAt act.1 h = some r)) ∧
       ((∀ h r y, routeAt s h = some r → named r → r.fade = some y → y.startedBy = none) → ∃ hs : List Nat,
         hs.Nodup ∧ (∀ h, h ∈ hs ↔ ∃ r, routeAt s h = some r ∧ named r) ∧ Counted g hs.length 0 s act.1))

/-- R96 to R99, R116, R121, R122: what PLAY, STOP and EXIT actions make of the voices. A PLAY starts its label's voice aligned where it is PRIMED,
or late, or claims the lowest FREE voice, or fails; skipped, it releases its label's voice. A STOP fades its playing voices out and frees those
still to start; an EXIT sets exit pending on its VAMP voices, a STOPPING one among them, and reaches no voice with neither start mark (the model's
choice, log 34); a STOP takes its voices in rising number (log 40). In underrun is no at a claim (log 11), and a clip without a loop begins in phase
BEFORE (log 26). A STOP fade starts from the level without a pause ramp coming up (log 16). Which fields a freed voice keeps beyond those R126 names
(`VoiceFreed`) is the model's choice (log 42). -/
def Obligations.PlaybackActionsActOnVoices : Prop :=
  (∀ (c : Clip) (q : Claim), claimedVoice c q =
    { state := .preloading, claimant := some q.claimant, clip := q.clip, offset := min q.offset (c.len - 1)
      mode := if q.mode ≠ .once ∧ c.loop = none then .once else q.mode
      phase := match c.loop with
        | none => .before
        | some (a, e) => if min q.offset (c.len - 1) < a then .before else if min q.offset (c.len - 1) < e then .inLoop else .tail
      exitPending := false, cls := q.cls, level := .off, startLevel := q.startLevel, fadeIn := q.fadeIn, fade := none, ramp := none
      play := 0, fetch := 0, pos := min q.offset (c.len - 1), startDue := q.startDue, startAligned := false
      adjusted := decide (c.len ≤ q.offset) || decide (q.mode ≠ .once ∧ c.loop = none)
      underruns := 0, inUnderrun := false, buffer := [], exitAt := none, fadeInBy := none, atEnd := false, starting := false, ending := false }) ∧
  (∀ (g : GoContext) (label clip offset mode : Nat) (level : Int) (fadeIn : Nat) (s : State),
    let kind : ActionKind := .play label clip offset mode level fadeIn
    let act := runAction g kind s
    let by' (v : Voice) : Option StartedBy := if 0 < v.fadeIn then some (goBy g) else v.fadeInBy
    (∀ v, labelVoice s g label = some v →
      let x := voiceOf s v
      (x.state = .primed → act.2 = .done x.adjusted false ∧ Counted g (decide (0 < x.fadeIn)).toNat 0 s act.1 ∧
        act.1 = { s with ve := { s.ve with voices := act.1.ve.voices }, cq := act.1.cq } ∧
        ∀ n, voiceOf act.1 n = if n = v then { x with startAligned := true, fadeInBy := by' x } else voiceOf s n) ∧
      (x.state ≠ .primed → act.2 = .done x.adjusted true ∧ Counted g (decide (0 < x.fadeIn)).toNat 1 s act.1 ∧
        act.1 = { s with ve := { s.ve with voices := act.1.ve.voices }, cq := act.1.cq } ∧
        ∀ n, voiceOf act.1 n = if n = v then { x with startDue := true, fadeInBy := by' x } else voiceOf s n) ∧
      (s.ve.waits = [] → s.rl.calls = [] → s.rt.routes.rising = true → VoiceFreed v x s (skipAction g kind s))) ∧
    (labelVoice s g label = none →
      skipAction g kind s = s ∧
      (clipOf s clip = none → act = (s, .failed .notfound)) ∧
      (∀ c, clipOf s clip = some c →
        ((∀ n, n < 32 → (voiceOf s n).state ≠ .free) → act = (raise .voiceShort (.num g.list) s, .failed .novoice)) ∧
        ∀ v, v < 32 → (voiceOf s v).state = .free → (∀ n, n < v → (voiceOf s n).state ≠ .free) →
          let x := claimedVoice c ⟨.running g.list g.take label, clip, offset, (modeOf mode).getD .once, level, fadeIn,
            if g.cue.priority then 2 else 3, true⟩
          act.2 = .done x.adjusted true ∧ act.1.cq.cues = s.cq.cues ∧
          (∀ n, voiceOf act.1 n = if n = v then { x with fadeInBy := by' x } else voiceOf s n) ∧
          act.1 = { s with ve := { s.ve with voices := act.1.ve.voices }, cq := act.1.cq, smp := act.1.smp } ∧
          act.1.smp.memory = s.smp.memory ∧ act.1.smp.size = s.smp.size ∧
          ∀ m, listOf act.1 m = if m = g.list then { listOf s m with
            running := (listOf s m).running.map (fun r => if r.take = g.take then { r with
              labels := r.labels ++ [(label, v)], late := r.late + 1, fades := r.fades + (decide (0 < fadeIn)).toNat } else r) }
            else listOf s m))) ∧
  ∀ (g : GoContext) (t : StopTarget) (dur : Nat) (s : State), s.ve.voices.rising = true →
    let reached (v : Voice) : Prop :=
      (v.state = .playing ∨ v.state = .stopping ∨ v.state = .pausing ∨ v.state = .paused ∨ v.startDue = true ∨ v.startAligned = true) ∧
      ∃ l k x, v.claimant = some (.running l k x) ∧ ((∃ c, t = .clip c ∧ v.clip = c) ∨ (t = .all ∧ l = g.list))
    (s.ve.waits = [] → s.rl.calls = [] → s.rt.routes.rising = true →
      let act := runAction g (.stop t dur) s
      act.2 = .done false false ∧ settings act.1 = settings s ∧
      ∀ n, let v := voiceOf s n
        (reached v → v.state = .playing → voiceOf act.1 n = { v with
          state := .stopping, fade := some ⟨.step (levelNum v.level), .off, dur, 0, some (goBy g)⟩ }) ∧
        (reached v → v.state = .primed ∨ v.state = .preloading → (voiceOf act.1 n).state = .free ∧ (voiceOf act.1 n).claimant = none ∧
          ∀ m r, routeAt s m = some r → r.src = 64 + n → routeAt act.1 m = none) ∧
        (¬reached v ∨ (v.state ≠ .playing ∧ v.state ≠ .primed ∧ v.state ≠ .preloading) → voiceOf act.1 n = v)) ∧
    let act := runAction g (.exit t) s
    act.2 = .done false false ∧
    act.1 = { s with ve := { s.ve with voices := act.1.ve.voices }, smp := act.1.smp } ∧
    act.1.smp.memory = s.smp.memory ∧ act.1.smp.size = s.smp.size ∧
    ∀ n, let v := voiceOf s n
      let k := voiceClip s v
      (∀ a e, reached v → loopOf k v = some (a, e) → v.mode = .vamp → v.phase ≠ .tail → v.exitPending = false →
        let x := v.play + (e - v.pos)
        let w : Voice := { v with exitPending := true, exitAt := some x, fetch := min v.fetch x, buffer := v.buffer.take (x - v.play) }
        voiceOf act.1 n = { w with state := if w.state = .preloading ∧ target k w ≤ w.buffer.length then .primed else w.state }) ∧
      (¬reached v ∨ loopOf k v = none ∨ v.mode ≠ .vamp ∨ v.phase = .tail ∨ v.exitPending = true → voiceOf act.1 n = v)

/-- R100, R101: what FB-BASE and CALL actions do: a mix's entry set, created, retired, or refused; a call placed by its preset or by its own fields,
or refused, or placed nowhere. -/
def Obligations.FoldbackAndCallActionsAct : Prop :=
  (∀ (g : GoContext) (mix src : Nat) (level : Level) (fade : Option FadeArg) (rt rm : Bool) (s : State),
    let act := runAction g (.fbBase mix src level fade rt rm) s
    (src = s.ss.stopSource → act = (s, .failed .reserved)) ∧
    (src ≠ s.ss.stopSource →
      (∀ h r, entryOf s mix src = some (h, r) → rm = false →
        act.2 = .done false false ∧ OnlyRoute h s act.1 ∧
        (let b := rebased (currentBase r) level (fade.map fadeArg) (.cue g.list) (some (goBy g)) (reclaimedRoute (currentBase r) r)
         routeAt act.1 h = some { b with trim := if rt then 0 else b.trim }) ∧
        (r.state = .live → (∀ f, r.fade = some f → f.startedBy = none) → Counted g fade.isSome.toNat 0 s act.1)) ∧
      (∀ h r, entryOf s mix src = some (h, r) → rm = true →
        act.2 = .done false false ∧ OnlyRoute h s act.1 ∧ (r.state = .retiring → act.1 = s) ∧
        (r.state = .live → (∃ r', routeAt act.1 h = some r' ∧ r'.state = .retiring ∧
            { r' with state := r.state, base := r.base, fade := r.fade, batch := r.batch } = r) ∧
          ((∀ f, r.fade = some f → f.startedBy = none) → Counted g 1 0 s act.1))) ∧
      (entryOf s mix src = none → rm = true → act = (s, .done false false)) ∧
      (entryOf s mix src = none → rm = false →
        (isVoice src = true → (voiceOf s (src - 64)).state = .free → act = (s, .failed .novoice)) ∧
        ((isVoice src = true → (voiceOf s (src - 64)).state ≠ .free) →
          (944 ≤ generalCount s → act = (raise .routeFull (.key src (24 + mix)) s, .failed .full)) ∧
          (generalCount s < 944 → 64 ≤ destCount s (24 + mix) → act = (raise .destFull (.num (24 + mix)) s, .failed .destfull)) ∧
          ∀ h, generalCount s < 944 → destCount s (24 + mix) < 64 → h < 1024 → routeAt s h = none → (∀ m, m < h → (routeAt s m).isSome = true) →
            ∃ x, act = ({ s with
                rt := { s.rt with
                  routes := s.rt.routes.store h
                      { state := .live, src := src, dst := 24 + mix, owner := .foldback, base := if fade.isSome then .off else level
                        trim := 0, mute := false, duck := 0, set := dstSet s (24 + mix), prot := false
                        fade := fade.map (fun f => ⟨.off, level, min f.dur 600000, 0, (curveOf f.curve).getD .linear, .cue g.list, some (goBy g)⟩)
                        duckFade := none, batch := none, last := none } }
                cq := { s.cq with lists := x } }, .done false false) ∧ Counted g fade.isSome.toNat 0 s act.1)))) ∧
  (∀ (g : GoContext) (p : Nat) (s : State),
    let x := callPresetOf s p
    let act := runAction g (.call (.preset p)) s
    let zones := resolveZones s x.zones x.groups
    (∀ c, placeRefusal s x.kind = some c → act = (s, .failed c)) ∧
    (placeRefusal s x.kind = none → zones = [] → act = (s, .done false false)) ∧
    ∀ n, placeRefusal s x.kind = none → zones ≠ [] → n < 16 → callOf s n = none → (∀ m, m < n → (callOf s m).isSome = true) →
      ∃ w, act = (scan w, .done false false) ∧ w = { s with rl := { s.rl with
          calls := s.rl.calls.store n ⟨some s.rl.seq, x.kind, zones, x.priority, x.duck, x.maxWait, 0, .list g.list, false, none, false, []⟩
          order := s.rl.order ++ [n], seq := (s.rl.seq + 1) % 65536, presets := w.rl.presets } } ∧
        ∀ k, callPresetOf w k = if k = p then { x with placed := some (n, s.rl.seq) } else callPresetOf s k) ∧
  (∀ (g : GoContext) (c : CallArgs) (s : State),
    let kind := callKindOf c.kind c.unit
    let act := runAction g (.call (.inline c)) s
    let zones := resolveZones s c.zones c.groups
    (∀ e, placeRefusal s kind = some e → act = (s, .failed e)) ∧
    (placeRefusal s kind = none → zones = [] → act = (s, .done false false)) ∧
    ∀ n, placeRefusal s kind = none → zones ≠ [] → n < 16 → callOf s n = none → (∀ m, m < n → (callOf s m).isSome = true) →
      act = (scan { s with rl := { s.rl with
        calls := s.rl.calls.store n ⟨some s.rl.seq, kind, zones, c.priority, c.duck, c.maxWait, 0, .list g.list, false, none, false, []⟩
        order := s.rl.order ++ [n], seq := (s.rl.seq + 1) % 65536 } }, .done false false)) ∧
  ∀ (s : State) (k : CallKind) (zones : BitVec 16) (groups : BitVec 8),
    placeRefusal s k = (if k = .live s.ss.stopSource then some .reserved
      else if (match k with | .recorded c => (clipOf s c).isNone | .live _ => false) = true then some .notfound
      else if 16 ≤ s.rl.order.length then some .qfull else none) ∧
    ∀ z, z ∈ resolveZones s zones groups ↔ z < 15 ∧ (zones.getLsbD z = true ∨ ∃ g, g < 8 ∧ groups.getLsbD g = true ∧ (zoneOf s z).groups.getLsbD g = true)

/-- R90, R86, R102 to R107: each action of a GO is run where its qualifier is TRUE and skipped where it is FALSE, and counted as done, skipped or
failed, a failure with ACTION-FAILED. TEST and CHECK write their pair with the result and its opposite, or, skipped in their second form, both
FALSE; SETC, CLEARS, OUTPUTS and EVENT write a condition, clear flags, drive FUNCTION lines and emit a host event. A skipped PLAY's voice does not mark the
outcome adjusted (the model's reading, log 50). -/
def Obligations.OtherActionsActAndAreCounted : Prop :=
  (∀ (g : GoContext) (s : State) (o : CueOutcome) (a : Action),
    (condOf s a.qual = false → goAction g (s, o) a =
      (skipAction g a.kind s, { o with skipped := o.skipped + 1, adjusted := o.adjusted || a.clamped })) ∧
    (∀ u x y, condOf s a.qual = true → runAction g a.kind s = (u, .done x y) → goAction g (s, o) a =
      (u, { o with done := o.done + 1, adjusted := o.adjusted || x || a.clamped, late := o.late || y })) ∧
    (∀ u c, condOf s a.qual = true → runAction g a.kind s = (u, .failed c) → goAction g (s, o) a =
      (raise .actionFailed (.num g.list) u, { o with
        failed := o.failed + 1, first := if o.first = none then some c else o.first, adjusted := o.adjusted || a.clamped }))) ∧
  ∀ (g : GoContext) (s : State),
    (let conditions (u : State) (f : Nat → Bool) : Prop := u = { s with cf := { s.cf with values := u.cf.values } } ∧
        ∀ k, k ≤ 31 → condOf u k = if k = 0 then true else f k
     (∀ (rel : TestRel) (form ca cb : Nat), ca ≠ cb → ca ≤ 31 → cb ≤ 31 →
       let meter (src : Nat) (x : Int) : Bool := match s.le.meters.read .off src with
         | .off => false
         | .step m => decide (x ≤ m)
       let r : Bool := match rel with
         | .meterGe src x => meter src x
         | .meterLt src x => !meter src x
         | .condAnd a b => condOf s a && condOf s b
         | .condOr a b => condOf s a || condOf s b
         | .contact l => (inputOf s l).settled
         | .other _ => false
       (∃ u, runAction g (.test rel form ca cb) s = (u, .done false false) ∧
         conditions u (fun k => if k = ca then r else if k = cb then !r else condOf s k)) ∧
       (form = 1 → conditions (skipAction g (.test rel form ca cb) s) (fun k => if k = ca ∨ k = cb then false else condOf s k)) ∧
       (form ≠ 1 → skipAction g (.test rel form ca cb) s = s)) ∧
     (∀ (n : Nat) (m : BitVec 8) (form ca cb : Nat), ca ≠ cb → ca ≤ 31 → cb ≤ 31 →
       let f := (setOf s n).flags
       let r : Bool := !(f.clamp && m.getLsbD 0) && !(f.floor && m.getLsbD 1) && !(f.ceiling && m.getLsbD 2) && !(f.ovr && m.getLsbD 3)
       (∃ u, runAction g (.check n m form ca cb) s = (u, .done false false) ∧
         conditions u (fun k => if k = ca then r else if k = cb then !r else condOf s k)) ∧
       (form = 1 → conditions (skipAction g (.check n m form ca cb) s) (fun k => if k = ca ∨ k = cb then false else condOf s k)) ∧
       (form ≠ 1 → skipAction g (.check n m form ca cb) s = s)) ∧
     ∀ (c : Nat) (v : Bool), c ≤ 31 → ∃ u, runAction g (.setc c v) s = (u, .done false false) ∧
       conditions u (fun k => if k = c then v else condOf s k)) ∧
    (∀ (n : Nat) (m : BitVec 8), ∃ x, runAction g (.clears n m) s = ({ s with le := { s.le with sets := x } }, .done false false) ∧
      ∀ k, x.read StatusSet.init k = if k = n then { setOf s n with flags :=
        { clamp := (setOf s n).flags.clamp && !m.getLsbD 0, floor := (setOf s n).flags.floor && !m.getLsbD 1
          ceiling := (setOf s n).flags.ceiling && !m.getLsbD 2, ovr := (setOf s n).flags.ovr && !m.getLsbD 3 } } else setOf s k) ∧
    (∀ a b : BitVec 16, ∃ x, runAction g (.outputs a b) s = ({ s with ef := { s.ef with outputs := x } }, .done false false) ∧
      ∀ l, x.read ContactOut.init l = if l < 16 ∧ (outputOf s l).fnOwned = true ∧ isLamp s l = false then { outputOf s l with
        high := match a.getLsbD l, b.getLsbD l with
          | true, true => !(outputOf s l).high
          | true, false => true
          | false, true => false
          | false, false => (outputOf s l).high } else outputOf s l) ∧
    (∀ h, ∃ u, runAction g (.event h) s = (u, .done false false) ∧
      (s.ef.depth < 5 → u = { s with ef := { s.ef with events := s.ef.events ++ [⟨256 + h, s.ef.depth, s.ef.cause, []⟩] } }) ∧
      (5 ≤ s.ef.depth → u = raise .chain (.num (256 + h)) s)) ∧
    ∀ k : ActionKind, (∀ l c o m d f, k ≠ .play l c o m d f) → (∀ r a b, k ≠ .test r 1 a b) → (∀ n m a b, k ≠ .check n m 1 a b) →
      skipAction g k s = s

/-! ## Conditions, links, clips, sample memory, voices -/

/-- R107 to R109: conditions are written by SetCondition, by their preset request and by a condition link; C0 is TRUE and never written. R109, R159,
R166: condition links, call presets, GO links and the stop and resume links are set while the lock allows it; SetLink names them 0 to 3, 4 and 5
(the model's choice, log 18). The layout of a reply's payload is the model's choice (log 19). How an event in flight is kept and taken is the
model's reading (log 4). -/
def Obligations.ConditionsAndLinksAreSet : Prop :=
  ((∀ s : State, condOf s 0 = true ∧ presetOf s 0 = true) ∧
   (∀ (h : Hdr) (c : Nat) (v : Bool) (s t : State), Taken h s t →
     (c = 0 ∨ 31 < c → exec (.setCondition h c v) s = .next (reply h (refuse .invalid) t)) ∧
     (1 ≤ c → c ≤ 15 → h.port = .b → exec (.setCondition h c v) s = .next (reply h (refuse .denied) t)) ∧
     (1 ≤ c → c ≤ 31 → (h.port = .b → 16 ≤ c) →
       ∃ x, exec (.setCondition h c v) s = .next (reply h (okWith [flag v]) { t with cf := { t.cf with values := x } }) ∧
         ∀ k, x.read false k = if k = c then v else t.cf.values.read false k)) ∧
   (∀ (h : Hdr) (c : Nat) (v : Bool) (s t : State), h.port = .a → Taken h s t → 1 ≤ c → c ≤ 31 →
     guarded t = false →
     ∃ x, exec (.setConditionPreset h c v) s = .next (reply h (okWith []) { t with cf := { t.cf with presets := x } }) ∧
       ∀ k, x.read false k = if k = c then v else t.cf.presets.read false k) ∧
   ∀ (l : Nat) (e : InFlight) (s t : State), Delivered (.cond l) e s t → l ≤ 7 →
     ∃ u, exec (.conditionLink l) s = .next u ∧ u = { t with cf := { t.cf with values := u.cf.values } } ∧
       ∀ k, k ≤ 31 → condOf u k = if k ≠ 0 ∧ k = (t.cf.links.read CondLink.init l).cond then (t.cf.links.read CondLink.init l).value
         else condOf t k) ∧
  (∀ (h : Hdr) (s t : State), h.port = .a → guarded t = false →
     (∀ l e c v, l ≤ 7 → c ≤ 31 → Taken h s t →
       ∃ x, exec (.setConditionLink h l e c v) s = .next (reply h (okWith []) { t with cf := { t.cf with links := x } }) ∧
         ∀ k, x.read CondLink.init k = if k = l then ⟨e, c, v⟩ else t.cf.links.read CondLink.init k) ∧
     (∀ n e, n ≤ 3 → Taken h s t →
       ∃ x, exec (.setLink h n e) s = .next (reply h (okWith []) { t with ef := { t.ef with goLinks := x } }) ∧
         ∀ k, x.read 0 k = if k = n then e else t.ef.goLinks.read 0 k) ∧
     (∀ e, Taken h s t → exec (.setLink h 4 e) s = .next (reply h (okWith []) { t with ef := { t.ef with stopLink := e } })) ∧
     (∀ e, Taken h s t → exec (.setLink h 5 e) s = .next (reply h (okWith []) { t with ef := { t.ef with resumeLink := e } })) ∧
     (∀ q : PresetArgs, badPreset q = false → Taken h s t →
       ∃ x, exec (.setCallPreset h q) s = .next (reply h (okAdj (q.duck.any (fun d => d < -1024 || 0 < d) || q.maxWait.any (fun n => 600000 < n)) [])
           { t with rl := { t.rl with presets := x } }) ∧
         ∀ k, x.read CallPreset.init k = if k = q.preset then
           { kind := (q.kind.map (fun p => if p.1 = 0 then CallKind.live p.2 else .recorded p.2)).getD (callPresetOf t k).kind
             zones := q.zones.getD (callPresetOf t k).zones, groups := q.groups.getD (callPresetOf t k).groups
             priority := q.priority.getD (callPresetOf t k).priority
             duck := (q.duck.map (clampInt (-1024) 0)).getD (callPresetOf t k).duck
             maxWait := (q.maxWait.map (min · 600000)).getD (callPresetOf t k).maxWait
             place := q.place.getD (callPresetOf t k).place, release := q.release.getD (callPresetOf t k).release
             placed := (callPresetOf t k).placed } else callPresetOf t k))

/-- R111, R112: a clip is posted or replaced with its trim clamped, and retired while no voice holds it. R113, R114: a WriteSamples that passes its
checks is held for the sample memory port with no reply yet, and port A takes nothing more; at the end of its transfer exactly its words are
written, it is answered OK, and port A takes what waits (R190) in the same command (the model's choice, log 3). The end of a transfer begins a cause
(the model's reading, log 4). -/
def Obligations.ClipsAndSamplesAreWritten : Prop :=
  (∀ (h : Hdr) (s t : State), h.port = .a →
     (∀ q : ClipArgs, Taken h s t → badClip q = false → q.addr + q.len ≤ t.smp.size →
       (∀ old, clipOf t q.id = some old → q.replace = true ∧ (old.prot = true → guarded t = false) ∧
         (holders t q.id = 0 ∨ (old.addr = q.addr ∧ old.len = q.len ∧ old.loop = q.loop))) →
       ∃ x, exec (.postClip h q) s = .next (reply h (okAdj (decide (q.trim < -256 ∨ 256 < q.trim)) []) { t with ve := { t.ve with clips := x } }) ∧
         ∀ k, x.find k = if k = q.id then some ⟨q.addr, q.len, q.loop, clampInt (-256) 256 q.trim, q.prot⟩ else clipOf t k) ∧
     (∀ id c, Taken h s t → id ≤ 511 → clipOf t id = some c → (c.prot = true → guarded t = false) → holders t id = 0 →
       ∃ x, exec (.retireClip h id) s = .next (reply h (okWith []) { t with ve := { t.ve with clips := x } }) ∧
         ∀ k, x.find k = if k = id then none else clipOf t k) ∧
     (∀ id c, Taken h s t → id ≤ 511 → clipOf t id = some c → (c.prot = true → guarded t = false) → 0 < holders t id →
       exec (.retireClip h id) s = .next (reply h (refuse .busy) t))) ∧
  ((∀ (h : Hdr) (a : Nat) (ws : List Sample) (s t : State), h.port = .a → Taken h s t → 1 ≤ ws.length →
     ws.length ≤ 254 → a + ws.length ≤ t.smp.size → (guarded t = true → overlapsProtected t a ws.length = false) →
     ∃ x, exec (.writeSamples h a ws) s = .next { t with portA := { t.portA with inProgress := some h.tag }, smp := x } ∧
       x.memory = t.smp.memory ∧ x.size = t.smp.size ∧ (x.write = some ⟨a, ws, h.tag⟩ ∨ x.transfer = some (.write ⟨a, ws, h.tag⟩))) ∧
   ∀ (s : State) (w : PendingWrite), s.smp.transfer = some (.write w) →
     ∃ u, exec .transferComplete s = .next (takeWaiting .a u) ∧
       u = { begin 1 s with
         portA := { s.portA with inProgress := none, replies := s.portA.replies ++ [⟨w.tag, okWith []⟩] }, smp := u.smp } ∧
       u.smp.size = s.smp.size ∧
       (∀ i x, w.words[i]? = some x → u.smp.memory.sampleAt (w.addr + i) = x) ∧
       ∀ a, (a < w.addr ∨ w.addr + w.words.length ≤ a) → u.smp.memory.sampleAt a = s.smp.memory.sampleAt a)

/-- R115, R118, R121: a voice's transfer appends the path samples it covers beyond the fetch count to the buffer and moves the fetch count to its
end; a PRELOADING voice at its target becomes PRIMED; the voice makes its next request and the arbiter its next grant, in this order (the model's
reading, log 17). The samples of a voice freed meanwhile are discarded; that the end of the transfer begins a cause is the model's
reading (log 4). R120, R115: the play path, sample by sample, and its length. R115, R118: the
request a voice wants. R114: while the port carries nothing the arbiter grants the highest class that has a request, and of its voices the first after
the class pointer, which becomes its number. A voice PAUSED while its transfer ran is filled too (the model's choice, log 35). -/
def Obligations.TransfersFillVoiceBuffers : Prop :=
  (∀ (s : State) (n start count : Nat) (cap : Option Nat),
    (s.smp.transfer = some (.fetch n start count cap false) →
      let v := voiceOf s n
      let last := match cap with | some x => min (start + count) x | none => start + count
      let path := (List.range (last - max v.fetch start)).map (fun i =>
        s.smp.memory.sampleAt ((voiceClip s v).addr + pathSample (voiceClip s v) v (max v.fetch start + i)))
      let w : Voice := { v with buffer := v.buffer ++ path, fetch := max v.fetch last }
      ∃ u, exec .transferComplete s = .next (grant (makeRequest n u)) ∧ u.smp = { s.smp with transfer := none } ∧
        voiceOf u n = { w with
          state := if w.state = .preloading ∧ target (voiceClip s v) w ≤ w.buffer.length then .primed else w.state } ∧
        (∀ m, m ≠ n → voiceOf u m = voiceOf s m) ∧ u.rt = s.rt ∧ settings u = settings s) ∧
    (s.smp.transfer = some (.fetch n start count cap true) →
      exec .transferComplete s = .next (grant (makeRequest n { begin 1 s with smp := { s.smp with transfer := none } })))) ∧
  (∀ (c : Clip) (v : Voice),
    (v.mode = .once ∨ c.loop = none ∨ (∃ a e, c.loop = some (a, e) ∧ e ≤ v.offset) →
      pathLen c v = some (c.len - v.offset) ∧ ∀ k, pathSample c v k = v.offset + k) ∧
    ∀ a e, v.mode ≠ .once → c.loop = some (a, e) → a < e → v.offset < e →
      pathLen c v = v.exitAt.map (fun x => x + (c.len - e)) ∧
      ((∀ x, v.exitAt = some x → 0 < x) → pathSample c v 0 = v.offset) ∧
      (∀ k, (∀ x, v.exitAt = some x → k + 1 < x) → pathSample c v (k + 1) = if pathSample c v k + 1 < e then pathSample c v k + 1 else a) ∧
      ∀ x k, v.exitAt = some x → x ≤ k → pathSample c v k = e + (k - x)) ∧
  (∀ (c : Clip) (v : Voice), target c v = match pathLen c v with | none => 4096 | some m => min 4096 (m - v.play)) ∧
  (∀ (s : State) (n : Nat),
    let v := voiceOf s n
    let remains : Prop := ∀ m, pathLen (voiceClip s v) v = some m → v.fetch < m
    (∀ k, wantedClass s n = some k ↔ remains ∧
      (((v.state = .preloading ∨ v.state = .primed) ∧ v.buffer.length < target (voiceClip s v) v ∧ k = v.cls) ∨
       ((v.state = .playing ∨ v.state = .stopping ∨ v.state = .pausing) ∧ v.buffer.length < 2048 ∧ k = 1))) ∧
    let carried : Prop := ∃ a k cap b, s.smp.transfer = some (.fetch n a k cap b)
    (wantedClass s n = none ∨ (s.smp.requests.find n).isSome = true ∨ carried → makeRequest n s = s) ∧
    ∀ k, wantedClass s n = some k → s.smp.requests.find n = none → ¬carried →
      makeRequest n s = grant { s with smp := { s.smp with requests := s.smp.requests.store n k } }) ∧
  ∀ s : State,
    let held (n : Nat) : Option Nat := if n < 32 then s.smp.requests.find n else none
    let place (n k : Nat) : Nat := (n + 31 * (s.smp.pointers.read 31 k + 1)) % 32
    let left (n m : Nat) : Nat := match pathLen (voiceClip s (voiceOf s n)) (voiceOf s n) with
      | none => m
      | some x => min m (x - (voiceOf s n).fetch)
    let size (n k : Nat) : Nat := min 1024 (left n ((if k = 1 then 4096 else target (voiceClip s (voiceOf s n)) (voiceOf s n)) -
      (voiceOf s n).buffer.length))
    (s.smp.transfer.isSome = true → grant s = s) ∧
    (s.smp.transfer = none →
      (∀ n k, held n = some k → 1 ≤ k → k ≤ 3 → (∀ m j, held m = some j → k ≤ j ∧ (j = k → place n k ≤ place m k)) →
        grant s = { s with smp := { s.smp with
          requests := s.smp.requests.remove n, pointers := s.smp.pointers.write 31 k n
          transfer := some (.fetch n (voiceOf s n).fetch (size n k) none false) } }) ∧
      ((∀ n, held n = none) →
        (∀ w, s.smp.write = some w → grant s = { s with smp := { s.smp with write := none, transfer := some (.write w) } }) ∧
        (s.smp.write = none → grant s = s)))

/-- R119: a PRIMED voice due to start plays at its start level, or begins its fade-in. R124, R125: a ramp that has come down makes the voice PAUSED,
one that has come up is removed. No other voice changes. A request that a voice holds as it becomes PAUSED stays with the arbiter (the model's choice,
log 35). That a boundary's end is a command of its own is the model's choice (log 1), and so is it that a ramp turned where it stands at its end ends
without a boundary between (log 52). -/
def Obligations.VoicesStartAndRamp : Prop :=
  (∀ (s : State) (n : Nat), n < 32 → (voiceOf s n).starting = true → startsNow s.ss.stopped (voiceOf s n) = true →
    ∃ u, exec (.voiceStart n) s = .next u ∧ settings u = settings s ∧ u.rt = s.rt ∧
      ∀ m, voiceOf u m = if m = n then { voiceOf s n with
        state := .playing
        level := if (voiceOf s n).fadeIn = 0 then .step (voiceOf s n).startLevel
          else fadeLevel .linear .towardStart .off (.step (voiceOf s n).startLevel) (voiceOf s n).fadeIn 1
        fade := if (voiceOf s n).fadeIn = 0 then none
          else some ⟨.off, .step (voiceOf s n).startLevel, (voiceOf s n).fadeIn, 1, (voiceOf s n).fadeInBy⟩
        fadeInBy := none, startAligned := false, startDue := false, starting := false } else voiceOf s m) ∧
  (∀ (s : State) (n : Nat) (p : PauseRamp), n < 32 → (voiceOf s n).ramp = some p →
    (p.up = false → (voiceOf s n).state = .pausing → 0 < p.r → p.dur ≤ p.r →
      ∃ x, exec (.pauseRampEnd n) s = .next { rejoin 1 s with ve := { s.ve with voices := x } } ∧
        ∀ m, x.read Voice.init m = if m = n then { voiceOf s n with state := .paused } else voiceOf s m) ∧
    (p.up = true → p.r = 0 →
      ∃ x, exec (.pauseRampUpEnd n) s = .next { rejoin 1 s with ve := { s.ve with voices := x } } ∧
        ∀ m, x.read Voice.init m = if m = n then { voiceOf s n with ramp := none } else voiceOf s m))

/-- R122, R126, R127, R117, R156, R157: a voice that reached its clip end, or whose STOP fade ended, is freed with every route it carried. Then it
is handed on: the first waiting label whose clip is present claims it and the labels before it are dropped; with none, it stays FREE and the calls
are scanned. A recorded call whose voice ends has ended. Which fields a freed voice keeps beyond those R126 names (`VoiceFreed`) is the model's choice
(log 42). That a boundary's end is a command of its own is the model's choice (log 1). -/
def Obligations.VoicesEndFree : Prop :=
  ∀ (s : State) (n : Nat), n < 32 → s.rt.routes.rising = true →
    let offered (w : Waiting) (q : Claim) (k : Clip) : Prop :=
      ∃ c p, waitingPlay s w = some (c, p) ∧ q = playClaim (.standby w.list w.number w.label) c p ∧ clipOf s q.clip = some k
    let handedOn (v : Voice) (u : State) : Prop :=
      (∀ pre w post q k, s.ve.waits = pre ++ w :: post → (∀ x ∈ pre, ¬∃ q k, offered x q k) → offered w q k →
        (∀ m, m < 32 → (voiceOf s m).state ≠ .free) →
        ∃ x, VoiceFreed n v s x ∧ u.rt = x.rt ∧ u.rl = x.rl ∧ u.ve.waits = post ∧ settings u = settings s ∧
          ∀ m, voiceOf u m = if m = n then claimedVoice k q else voiceOf s m) ∧
      ((∀ x ∈ s.ve.waits, ¬∃ q k, offered x q k) → ∃ x, VoiceFreed n v s x ∧ x.ve.waits = [] ∧ x.rl = s.rl ∧ u = scan x) ∧
      (s.ve.waits = [] → s.rl.calls = [] → VoiceFreed n v s u)
    ((voiceOf s n).ending = true → (voiceOf s n).atEnd = true →
      ((∀ c, (voiceOf s n).claimant ≠ some (.call c)) → ∃ u, exec (.voiceEnd n) s = .next u ∧ handedOn (voiceOf s n) u) ∧
      (∀ k c, (voiceOf s n).claimant = some (.call k) → callOf s k = some c → c.active = true → c.voice = some n → Sound s →
        ∃ u, exec (.voiceEnd n) s = .next u ∧ callOf u k = none ∧ settings u = settings s ∧
          (∀ m, m ≠ k → (callOf u m).map callFixed = (callOf s m).map callFixed) ∧
          (s.ve.waits = [] → (∀ m, m ≠ k → callOf s m = none) →
            (voiceOf u n).state = .free ∧ (voiceOf u n).claimant = none ∧ (∀ m, m ≠ n → voiceOf u m = voiceOf s m) ∧
            (∀ z, zoneOf u z = if z ∈ c.zones then { zoneOf s z with holder := none } else zoneOf s z) ∧
            (∀ m r, routeAt s m = some r → r.src = 64 + n → routeAt u m = none ∧ genOf u m = (genOf s m + 1) % 65536) ∧
            (∀ m r z, routeAt s m = some r → r.src = pgmt → r.dst = 56 + z → z ∈ c.zones →
              routeAt u m = some { r with duckFade := some ⟨r.duck, 0, (zoneOf s z).release, 0⟩ })))) ∧
    (∀ f, (voiceOf s n).fade = some f → f.b = .off → 0 < f.n → f.dur ≤ f.n →
      ∃ u, exec (.voiceFadeComplete n) s = .next u ∧ handedOn { voiceOf s n with level := .off } u)

/-! ## Foldback and the panel link -/

/-- R130 to R132: the mix takes the given items, clamped, and every entry's trim is clamped into its window at that instant. R129, R133, R134: a
foldback base creates an absent entry, changes a present one, and with remove retires a LIVE one. The layout of a reply's payload is the model's
choice (log 19). -/
def Obligations.MixesAndBasesAreConfigured : Prop :=
  (∀ (h : Hdr) (q : MixArgs) (s t : State), h.port = .a → Taken h s t → badMix q = false →
     (t.ss.stopped = true → q.stopFeed = none) → (guarded t = true → guardedChange q (mixOf t q.mix) = false) → t.rt.routes.rising = true →
     let x := mixOf t q.mix
     let y : Mix :=
       { ceiling := (q.ceiling.map (clampInt (-1024) 192)).getD x.ceiling
         trimMin := (q.trimMin.map (clampInt (-128) 0)).getD x.trimMin
         trimMax := (q.trimMax.map (clampInt 0 64)).getD x.trimMax
         adjustable := (q.adjustable.map (fun l => (List.range 101).filter (fun n => l.contains n))).getD x.adjustable
         lossRecall := (q.loss.map (fun n => n == 1)).getD x.lossRecall
         stopFeed := q.stopFeed.getD x.stopFeed }
     ∃ u a, exec (.setMixConfig h q) s = .next (reply h a u) ∧ a.code = .ok ∧ a.adjusted = mixAdjusted q ∧
       u = { t with fb := { t.fb with mixes := u.fb.mixes }, rt := { t.rt with routes := u.rt.routes } } ∧
       (∀ m, mixOf u m = if m = q.mix then y else mixOf t m) ∧
       ∀ n, routeAt u n = (routeAt t n).map (fun r =>
         if r.owner = .foldback ∧ r.dst = 24 + q.mix then { r with trim := clampInt y.trimMin y.trimMax r.trim } else r)) ∧
  (∀ (h : Hdr) (q : FbArgs) (s t : State), h.port = .a → badBase q = false →
     (∀ n, Taken h s t → q.src ≠ t.ss.stopSource → findKey t q.src (24 + q.mix) = none →
       (isVoice q.src = true → (voiceOf t (q.src - 64)).state ≠ .free) → generalCount t < 944 → destCount t (24 + q.mix) < 64 →
       n < 1024 → routeAt t n = none → (∀ m, m < n → (routeAt t m).isSome = true) →
       exec (.setFoldbackBase h q) s = .next (reply h
         (okAdj (adjustedLevel (some q.level) q.fade) [u2 n, u2 (genOf t n), s1 0, u1 0])
         { t with rt := { t.rt with routes := (t.rt.routes.store n
             { state := .live, src := q.src, dst := 24 + q.mix, owner := .foldback, base := if q.fade.isSome then .off else clampLevel q.level
               trim := 0, mute := false, duck := 0, set := dstSet t (24 + q.mix), prot := q.prot.getD false
               fade := q.fade.map (fun f => ⟨.off, clampLevel q.level, min f.dur 600000, 0, (curveOf f.curve).getD .linear, .foldback, none⟩)
               duckFade := none, batch := none, last := none }) } })) ∧
     (∀ n r, Taken h s t → q.src ≠ t.ss.stopSource → mixEntry t q.mix q.src = some (n, r) →
       (r.prot = true → guarded t = false) →
       let b := basedOn (currentBase r) q.level q.fade .foldback (reclaimedRoute (currentBase r) r)
       let r' := { b with trim := if q.resetTrim then 0 else b.trim, prot := q.prot.getD b.prot }
       ∃ u, exec (.setFoldbackBase h q) s = .next (reply h
           (okAdj (adjustedLevel (some q.level) q.fade) [u2 n, u2 (genOf t n), s1 r'.trim, flag r'.mute]) u) ∧
         routeAt u n = some r' ∧ OnlyRoute n t u) ∧
     (∀ n r, Taken h s t → mixEntry t q.mix q.src = some (n, r) → (r.prot = true → guarded t = false) →
       (r.state = .retiring → ∃ a, exec (.setFoldbackBaseRemove h q) s = .next (reply h a t) ∧ a.code = .ok) ∧
       (r.state = .live → ∃ u a r', exec (.setFoldbackBaseRemove h q) s = .next (reply h a u) ∧ a.code = .ok ∧
         routeAt u n = some r' ∧ r'.state = .retiring ∧ { r' with state := r.state, base := r.base, fade := r.fade, batch := r.batch } = r ∧
         OnlyRoute n t u)) ∧
     (Taken h s t → mixEntry t q.mix q.src = none →
       exec (.setFoldbackBaseRemove h q) s = .next (reply h (refuse .notfound) t)))

/-- R136, R137: panels are enrolled, withdrawn and polled in rising order of address, wrapping; a slot that opens while another stands open counts
no miss (the model's choice, log 5). R138, R143: an unanswered poll of a PRESENT panel raises its miss count by one, and the eighth makes it LOST,
with PANEL-LOST, and applies the loss policy of its mix; of a SILENT or LOST panel it changes nothing. R138, R144, R198: a well-formed frame of the
polled panel is its request's command (log 3); without a request it brings the panel to PRESENT, a LOST one with PANEL-BACK; a repeated sequence
acts nothing more; a frame that is not well-formed changes nothing, and its slot ends with POLL_UNANSWERED (log 5). A withdrawn entry reads
as after cold reset, its presence, miss count, identity and last sequence with it (the model's choice, log 44). Requests of other kinds are answered
INVALID: PanelRequestsActOrAreDenied. -/
def Obligations.PanelsAreEnrolledPolledAndHeard : Prop :=
  ((∀ (h : Hdr) (a : Nat) (m : Option Nat) (s t : State), h.port = .a → Taken h s t → 1 ≤ a → a ≤ 32 →
     (∀ x ∈ m, x ≤ 31) → (∀ x ∈ m, ∀ b, b ≤ 32 → b ≠ a → (panelOf t b).enrolled = true → (panelOf t b).mix ≠ some x) →
     ∃ u z, exec (.enrolPanel h a m) s = .next (reply h z u) ∧ z.code = .ok ∧ u = { t with fb := { t.fb with panels := u.fb.panels } } ∧
       ∀ b, panelOf u b = if b = a then (if (panelOf t a).enrolled then { panelOf t a with mix := m }
         else { enrolled := true, mix := m, presence := .silent, misses := 0, identity := none, lastSeq := none, lastReply := none })
         else panelOf t b) ∧
   (∀ (h : Hdr) (a : Nat) (s t : State), h.port = .a → Taken h s t → 1 ≤ a → a ≤ 32 → (panelOf t a).enrolled = true →
     ∃ u, exec (.withdrawPanel h a) s = .next (reply h (okWith []) u) ∧
       u = { t with fb := { t.fb with panels := u.fb.panels, polling := u.fb.polling } } ∧ u.fb.polling ≠ some a ∧
       (t.fb.polling ≠ some a → u.fb.polling = t.fb.polling) ∧ ∀ b, panelOf u b = if b = a then Panel.init else panelOf t b) ∧
   ∀ s : State,
     ((∀ a, a ≤ 32 → (panelOf s a).enrolled = false) → exec .pollSlot s = .next { s with fb := { s.fb with polling := none } }) ∧
     ((∃ a, a ≤ 32 ∧ (panelOf s a).enrolled = true) → ∃ a,
       exec .pollSlot s = .next { s with fb := { s.fb with
         lastPolled := a, polling := some a, frame := panelBytes a (pollBody (panelOf s a)) } } ∧
       a ≤ 32 ∧ (panelOf s a).enrolled = true ∧
       ((s.fb.lastPolled < a ∧ ∀ b, s.fb.lastPolled < b → b < a → (panelOf s b).enrolled = false) ∨
        ((∀ b, b ≤ 32 → s.fb.lastPolled < b → (panelOf s b).enrolled = false) ∧ ∀ b, b < a → (panelOf s b).enrolled = false)))) ∧
  ((∀ (s : State) (a : Nat),
      (s.fb.polling ≠ some a → exec (.pollUnanswered a) s = .next s) ∧
      (s.fb.polling = some a → (panelOf s a).enrolled = false ∨ (panelOf s a).presence ≠ .present →
        exec (.pollUnanswered a) s = .next { s with fb := { s.fb with polling := none } })) ∧
   (∀ (s : State) (a : Nat), s.fb.polling = some a → (panelOf s a).enrolled = true → (panelOf s a).presence = .present →
      ((panelOf s a).misses < 7 →
        ∃ u, exec (.pollUnanswered a) s = .next u ∧ u = { s with fb := { s.fb with polling := none, panels := u.fb.panels } } ∧
          ∀ b, panelOf u b = if b = a then { panelOf s a with misses := (panelOf s a).misses + 1 } else panelOf s b) ∧
      ((panelOf s a).misses = 7 → s.rt.routes.rising = true →
        ∃ u, exec (.panelLost a) s = .next u ∧ exec (.pollUnanswered a) s = .next u ∧
          (∀ b, panelOf u b = if b = a then { panelOf s a with presence := .lost, misses := 8 } else panelOf s b) ∧
          noticeOf u .panelLost = raisedNotice (.num a) (noticeOf s .panelLost) ∧
          (∀ n, routeAt u n = (routeAt s n).map (fun r =>
            if ∃ m, (panelOf s a).mix = some m ∧ (mixOf s m).lossRecall = true ∧ r.owner = .foldback ∧ r.dst = 24 + m
            then { r with trim := 0, mute := false } else r)) ∧
          u = { s with fb := { s.fb with polling := none, panels := u.fb.panels }, rt := { s.rt with routes := u.rt.routes }
                       nt := { s.nt with kinds := u.nt.kinds } })) ∧
   ((∀ (bytes : List Byte) (s : State), panelFrame bytes = none → exec (.panelAnswer bytes) s = .next s) ∧
    (∀ (bytes : List Byte) (s : State) (a q : Nat),
      (∀ n r, panelFrame bytes = some (a, some (q, .ident n r)) → exec (.panelAnswer bytes) s = exec (.ident a q n r) s) ∧
      (∀ m x d, panelFrame bytes = some (a, some (q, .nudge m x d)) → exec (.panelAnswer bytes) s = exec (.nudge a q m x d) s) ∧
      (∀ m x d, panelFrame bytes = some (a, some (q, .setTrim m x d)) → exec (.panelAnswer bytes) s = exec (.setTrim a q m x d) s) ∧
      (∀ m x o, panelFrame bytes = some (a, some (q, .mute m x o)) → exec (.panelAnswer bytes) s = exec (.mute a q m x o) s) ∧
      (∀ m, panelFrame bytes = some (a, some (q, .recall m)) → exec (.panelAnswer bytes) s = exec (.recall a q m) s) ∧
      (∀ m, panelFrame bytes = some (a, some (q, .readMix m)) → exec (.panelAnswer bytes) s = exec (.readMixPanel a q m) s)) ∧
    ∀ (bytes : List Byte) (s : State) (a : Nat) (r : Option (Nat × PanelReq)), panelFrame bytes = some (a, r) → s.fb.polling = some a →
      (∀ q, r = some q → (panelOf s a).lastSeq = some q.1) →
      ∃ u, exec (.panelAnswer bytes) s = .next u ∧
        (∀ b, panelOf u b = if b = a then { panelOf s a with presence := .present, misses := 0 } else panelOf s b) ∧
        u = { s with fb := { s.fb with polling := none, panels := u.fb.panels }, nt := { s.nt with kinds := u.nt.kinds } } ∧
        ((panelOf s a).presence = .lost → ∀ k, noticeOf u k =
          if k = .panelBack then raisedNotice (.num a) (noticeOf s .panelBack) else noticeOf s k) ∧
        ((panelOf s a).presence ≠ .lost → u.nt = s.nt)))

/-- R138 to R142: a new request of the polled panel, whatever its presence was, bound to mix `own`: the trim it sets is clamped into the mix's
window; a mute and a recall reach LIVE adjustable entries of its own mix alone; an identity is recorded; a read changes no route; the reply is kept
for the polls. R139: a request with a number out of its range is answered INVALID, one of an unbound panel DENIED; one on another mix, or on a
source its mix does not let it adjust, DENIED with PANEL-DENIED; and one on a source with no LIVE entry NOENTRY; none of these changes a record. The
layout of a reply's payload is the model's choice (log 19). -/
def Obligations.PanelRequestsActOrAreDenied : Prop :=
  ∀ (s : State) (a q : Nat), s.fb.polling = some a → (panelOf s a).lastSeq ≠ some q →
    let answered (e : PanelEnd) (denied : Bool) (u : State) : Prop := PanelAnswered a q e denied (panelOf s a).identity s u
    (∀ own, (panelOf s a).mix = some own → own ≤ 31 →
      let m := mixOf s own
      (∀ src n r, srcOk src = true → m.adjustable.contains src = true → liveEntry s own src = some (n, r) →
        let only (u : State) (r' : Route) : Prop := ∀ k, routeAt u k = if k = n then some r' else routeAt s k
        let trimmed (v : Int) : Int := clampInt m.trimMin m.trimMax v
        (∀ d : Int, d ≠ 0 → -16 ≤ d → d ≤ 16 → ∃ u, exec (.nudge a q own src d) s = .next u ∧
          answered ⟨.ok, decide (trimmed (r.trim + d) ≠ r.trim + d), [s1 (trimmed (r.trim + d))]⟩ false u ∧
          only u { r with trim := trimmed (r.trim + d) }) ∧
        (∀ v : Int, ∃ u, exec (.setTrim a q own src v) s = .next u ∧
          answered ⟨.ok, decide (trimmed v ≠ v), [s1 (trimmed v)]⟩ false u ∧ only u { r with trim := trimmed v }) ∧
        (∀ on : Bool, ∃ u, exec (.mute a q own src on) s = .next u ∧ answered ⟨.ok, false, []⟩ false u ∧ only u { r with mute := on })) ∧
      (s.rt.routes.rising = true → ∃ u k, exec (.recall a q own) s = .next u ∧ answered ⟨.ok, false, [u2 k]⟩ false u ∧
        ∀ n, routeAt u n = (routeAt s n).map (fun r =>
          if r.owner = .foldback ∧ r.dst = 24 + own ∧ r.state = .live ∧ m.adjustable.contains r.src = true
          then { r with trim := 0, mute := false } else r)) ∧
      (∃ u, exec (.readMixPanel a q own) s = .next u ∧ answered ⟨.ok, false, panelMix s own⟩ false u ∧ u.rt = s.rt) ∧
      (∀ mix, mix ≤ 31 → mix ≠ own → ∀ i ∈ [Instr.recall a q mix, .readMixPanel a q mix], ∃ u, exec i s = .next u ∧ u.rt = s.rt ∧
        answered ⟨.denied, false, []⟩ true u) ∧
      ∀ (mix src : Nat) (d v : Int) (on : Bool), mix ≤ 31 → src ≤ 100 → d ≠ 0 → -16 ≤ d → d ≤ 16 →
        ∀ i ∈ [Instr.nudge a q mix src d, .setTrim a q mix src v, .mute a q mix src on],
          (mix ≠ own ∨ (mixOf s mix).adjustable.contains src = false →
            ∃ u, exec i s = .next u ∧ u.rt = s.rt ∧ answered ⟨.denied, false, []⟩ true u) ∧
          (mix = own → (mixOf s mix).adjustable.contains src = true → liveEntry s mix src = none →
            ∃ u, exec i s = .next u ∧ u.rt = s.rt ∧ answered ⟨.noentry, false, []⟩ false u)) ∧
    (∀ n v, ∃ u, exec (.ident a q n v) s = .next u ∧ u.rt = s.rt ∧
      PanelAnswered a q ⟨.ok, false, [o1 (panelOf s a).mix]⟩ false (some (n, v)) s u) ∧
    (∀ (mix src : Nat) (d v : Int) (on : Bool),
      (31 < mix ∨ 100 < src →
        ∀ i ∈ [Instr.nudge a q mix src d, .setTrim a q mix src v, .mute a q mix src on], ∃ u, exec i s = .next u ∧ u.rt = s.rt ∧
          answered ⟨.invalid, false, []⟩ false u) ∧
      (d = 0 ∨ d < -16 ∨ 16 < d → ∃ u, exec (.nudge a q mix src d) s = .next u ∧ u.rt = s.rt ∧ answered ⟨.invalid, false, []⟩ false u) ∧
      (31 < mix → ∀ i ∈ [Instr.recall a q mix, .readMixPanel a q mix], ∃ u, exec i s = .next u ∧ u.rt = s.rt ∧
        answered ⟨.invalid, false, []⟩ false u) ∧
      ((panelOf s a).mix = none → mix ≤ 31 → src ≤ 100 → d ≠ 0 → -16 ≤ d → d ≤ 16 →
        ∀ i ∈ [Instr.nudge a q mix src d, .setTrim a q mix src v, .mute a q mix src on, .recall a q mix, .readMixPanel a q mix],
          ∃ u, exec i s = .next u ∧ u.rt = s.rt ∧ answered ⟨.denied, false, []⟩ false u)) ∧
    ∀ (bytes : List Byte) (k : Nat), panelFrame bytes = some (a, some (q, .other k)) →
      ∃ u, exec (.panelAnswer bytes) s = .next u ∧ u.rt = s.rt ∧ answered ⟨.invalid, false, []⟩ false u

/-! ## Relay zones and calls -/

/-- R147, R148: the zone takes the given items, clamped; no other zone and no setting changes, and the reply carries the record (its layout is the
model's choice, log 19). Enabling it makes its programme route, or reclaims one still RETIRING, ducked at once for its holder; disabling it retires
that route; a relay level given to a zone that stays enabled moves its base; each with the fade given with the relay level, a fade given without one
being clamped and acting on nothing (the model's choice, log 37). A call level moves the base of the call routes into the zone, a status set is taken
by its routes, and a lamp line given is driven by the zones that name it, the line named before falling low. A zone that may not have its route made
is refused FULL. -/
def Obligations.ZonesAreConfigured : Prop :=
  (∀ (h : Hdr) (q : ZoneArgs) (s t : State), h.port = .a → Taken h s t →
    (14 < q.zone ∨ (∃ l, q.lamp = some (some l) ∧ 15 < l) ∨ (∃ n, q.set = some n ∧ 3 < n) ∨ (∃ f, q.fade = some f ∧ 2 < f.curve) →
      exec (.setZoneConfig h q) s = .next (reply h (refuse .invalid) t)) ∧
    (badZone q = false → guarded t = false → q.enabled = some true → (zoneOf t q.zone).enabled = false → programmeRoute t q.zone = none →
      944 ≤ generalCount t →
      exec (.setZoneConfig h q) s = .next (reply h (refuse .full) (raise .routeFull (.key 100 (56 + q.zone)) t)))) ∧
  ∀ (h : Hdr) (q : ZoneArgs) (s t : State), h.port = .a → Taken h s t → badZone q = false → guarded t = false →
    (enables t q = true → programmeRoute t q.zone = none → generalCount t < 944) → t.rt.routes.rising = true → t.ef.outputs.rising = true →
    let k := q.zone
    let x := zoneOf t k
    let y : Zone := { x with
      enabled := q.enabled.getD x.enabled
      relay := (q.relay.map (clampInt (-1024) 192)).getD x.relay
      call := (q.call.map (clampInt (-1024) 192)).getD x.call
      attack := (q.attack.map (min · 500)).getD x.attack
      release := (q.release.map (min · 5000)).getD x.release
      lamp := q.lamp.getD x.lamp
      groups := q.groups.getD x.groups
      set := q.set.getD x.set }
    let adjusted : Bool := q.relay.any (fun v => v < -1024 || 192 < v) || q.call.any (fun v => v < -1024 || 192 < v) ||
      q.attack.any (fun n => 500 < n) || q.release.any (fun n => 5000 < n) || q.fade.any (fun f => 600000 < f.dur)
    let fade : Option (Nat × Curve) := if q.relay = none then none
      else q.fade.map (fun f => (min f.dur 600000, (curveOf f.curve).getD .linear))
    let duck : Int := ((x.holder.bind (callOf t)).map (·.duck)).getD 0
    let into (r : Route) : Route := { r with set := q.set.getD r.set }
    let turnsOn : Prop := q.enabled = some true ∧ x.enabled = false
    let turnsOff : Prop := q.enabled = some false ∧ x.enabled = true
    ∃ u, exec (.setZoneConfig h q) s = .next (reply h (okAdj adjusted (zoneItems u k)) u) ∧ settings u = settings t ∧
      (∀ z, zoneOf u z = if z = k then y else zoneOf t z) ∧ (∀ n, genOf u n = genOf t n) ∧
      (∀ n, turnsOn → programmeRoute t k = none → n < 1024 → routeAt t n = none → (∀ m, m < n → (routeAt t m).isSome = true) →
        routeAt u n = some { state := .live, src := 100, dst := 56 + k, owner := .relay, base := if fade.isSome = true then .off else .step y.relay
                             trim := 0, mute := false, duck := duck, set := y.set, prot := false
                             fade := fade.map (fun f => ⟨.off, .step y.relay, f.1, 0, f.2, .relay, none⟩)
                             duckFade := none, batch := none, last := none }) ∧
      (∀ n r, programmeRoute t k = some n → routeAt t n = some r →
        (turnsOn → routeAt u n = some (into { rebased (currentBase r) (.step y.relay) fade .relay none (reclaimedRoute (currentBase r) r) with
          duck := duck, duckFade := none })) ∧
        (turnsOff → r.state = .live → ∃ r', routeAt u n = some r' ∧ r'.state = .retiring ∧
          { r' with state := r.state, base := r.base, fade := r.fade, batch := r.batch } = into r ∧
          (∀ b, r'.batch = some b → ∃ w, u.ru.batches.find b = some w ∧ w.cls = .other ∧ w.dur = y.release ∧ w.curve = .linear ∧
            ⟨n, none, .off⟩ ∈ w.members) ∧
          (r'.batch = none → ∃ f, r'.fade = some f ∧ f.b = .off ∧ f.dur = y.release ∧ f.curve = .linear ∧ f.startedBy = none)) ∧
        (¬turnsOn → y.enabled = true → q.relay.isSome = true →
          routeAt u n = some (into (rebased (currentBase r) (.step y.relay) fade .relay none r))) ∧
        (¬turnsOn → ¬turnsOff → y.enabled = false ∨ q.relay = none → routeAt u n = some (into r))) ∧
      (∀ n r, routeAt t n = some r → r.dst = 56 + k → r.src ≠ 100 →
        routeAt u n = some (into (if r.owner = .relay ∧ q.call.isSome = true then { r with base := .step y.call, fade := none } else r))) ∧
      (∀ n r, routeAt t n = some r → r.dst ≠ 56 + k → routeAt u n = some r) ∧
      (q.lamp = none → u.ef.outputs = t.ef.outputs) ∧
      (q.lamp ≠ none → ∀ l, l < 16 → outputOf u l =
        if isLamp u l = true then
          { outputOf t l with high := (List.range 15).any (fun z => (zoneOf u z).lamp == some l && (zoneOf u z).holder.isSome) }
        else if x.lamp = some l then { outputOf t l with high := false } else outputOf t l)

/-- R151: PlaceCall is refused INVALID, RESERVED, NOTFOUND or QFULL, in that order; R152: ReleaseCall and CancelCall are refused INVALID, NOTFOUND,
HELD or STALE before their own checks (an order where R152 gives none: the model's reading, log 30). R150, R151: a call placed takes the lowest free
slot, the counter's sequence and its resolved zones, QUEUED, and a scan follows; with no zone it is answered OK and not placed; the reply says
whether it is ACTIVE. R160: a delivery to a preset's place link places its call, which becomes the preset's placed call; one to its release link
ends a LIVE placed call. R152, R157, R158: a call released, cancelled or expired leaves its slot and the presets that name it; an ACTIVE one that is
released gives up its routes and zones, and a scan follows. The layout of a reply's payload is the model's choice (log 19). How an event in flight
is kept and taken is the model's reading (log 4). That a boundary's end is a command of its own is the model's choice (log 1). -/
def Obligations.CallsAreQueuedAndLeave : Prop :=
  ((∀ (h : Hdr) (c : CallArgs) (s t : State), Taken h s t →
      let gives (e : Code) : Prop := exec (.placeCall h c) s = .next (reply h (refuse e) t)
      let unknown : Prop := 1 < c.kind ∨ (c.kind = 0 ∧ (c.unit < 96 ∨ 99 < c.unit)) ∨ (c.kind = 1 ∧ 511 < c.unit) ∨ c.zones.getLsbD 15 = true ∨
        2 < c.priority
      (unknown → gives .invalid) ∧
      (¬unknown → c.kind = 0 → c.unit = t.ss.stopSource → gives .reserved) ∧
      (¬unknown → c.kind = 1 → clipOf t c.unit = none → gives .notfound) ∧
      (¬unknown → (c.kind = 0 → c.unit ≠ t.ss.stopSource) → (c.kind = 1 → clipOf t c.unit ≠ none) → 16 ≤ t.rl.order.length → gives .qfull)) ∧
   ∀ (h : Hdr) (id n : Nat) (s t : State), Taken h s t → ∀ i ∈ [Instr.releaseCall h id n, .cancelCall h id n],
      (16 < id → exec i s = .next (reply h (refuse .invalid) t)) ∧
      (id ≤ 16 → callOf t id = none → exec i s = .next (reply h (refuse .notfound) t)) ∧
      (id = 16 → callOf t id ≠ none → exec i s = .next (reply h (refuse .held) t)) ∧
      ∀ c, id < 16 → callOf t id = some c → c.seq ≠ some n → exec i s = .next (reply h (refuse .stale) t)) ∧
  ((∀ (h : Hdr) (c : CallArgs) (s t : State), Taken h s t → badCall c = false →
      placeRefusal t (callKindOf c.kind c.unit) = none →
      let zones := (List.range 15).filter (fun z => c.zones.getLsbD z || (zoneOf t z).groups &&& c.groups != 0)
      let adj := decide (c.duck < -1024 ∨ 0 < c.duck) || decide (600000 < c.maxWait)
      (zones = [] → exec (.placeCall h c) s = .next (reply h (okAdj adj []) t)) ∧
      (∀ n, zones ≠ [] → n < 16 → callOf t n = none → (∀ m, m < n → (callOf t m).isSome = true) →
        let u := scan { t with rl := { t.rl with
          calls := t.rl.calls.store n ⟨some t.rl.seq, callKindOf c.kind c.unit, zones, c.priority, clampInt (-1024) 0 c.duck,
            min c.maxWait 600000, 0, .port h.port, false, none, false, []⟩
          order := t.rl.order ++ [n], seq := (t.rl.seq + 1) % 65536 } }
        exec (.placeCall h c) s = .next (reply h
          (okAdj adj [u1 n, u2 t.rl.seq, u1 (if (callOf u n).any (·.active) then 1 else 0)]) u) ∧
        (callOf u n).map callFixed = some (some t.rl.seq, callKindOf c.kind c.unit, zones, c.priority, clampInt (-1024) 0 c.duck,
          min c.maxWait 600000, .port h.port) ∧
        (∀ m, m ≠ n → (callOf u m).map callFixed = (callOf t m).map callFixed) ∧
        u.rl.seq = (t.rl.seq + 1) % 65536 ∧ u.rl.presets = t.rl.presets ∧ settings u = settings t)) ∧
   ((∀ (p n : Nat) (e : InFlight) (s t : State), Delivered (.place p) e s t → p < 8 → placeRefusal t (callPresetOf t p).kind = none →
      resolveZones t (callPresetOf t p).zones (callPresetOf t p).groups ≠ [] → n < 16 → callOf t n = none →
      (∀ m, m < n → (callOf t m).isSome = true) →
      ∃ w, exec (.presetPlaceLink p) s = .next (scan w) ∧ w = { t with rl := { t.rl with
          calls := t.rl.calls.store n ⟨some t.rl.seq, (callPresetOf t p).kind,
            resolveZones t (callPresetOf t p).zones (callPresetOf t p).groups, (callPresetOf t p).priority, (callPresetOf t p).duck,
            (callPresetOf t p).maxWait, 0, .preset p, false, none, false, []⟩
          order := t.rl.order ++ [n], seq := (t.rl.seq + 1) % 65536, presets := w.rl.presets } } ∧
        ∀ k, callPresetOf w k = if k = p then { callPresetOf t p with placed := some (n, t.rl.seq) } else callPresetOf t k) ∧
    (∀ (p : Nat) (e : InFlight) (s t : State), Delivered (.place p) e s t → p < 8 →
      placeRefusal t (callPresetOf t p).kind ≠ none ∨ resolveZones t (callPresetOf t p).zones (callPresetOf t p).groups = [] →
      exec (.presetPlaceLink p) s = .next t) ∧
    ∀ (p n k : Nat) (c : Call) (e : InFlight) (s t : State), Delivered (.release p) e s t → p < 8 →
      (callPresetOf t p).placed = some (n, k) → callOf t n = some c →
      (isRecorded c = true ∨ c.seq ≠ some k → exec (.presetReleaseLink p) s = .next t) ∧
      (isRecorded c = false → c.seq = some k → c.active = false → ∃ r, exec (.presetReleaseLink p) s = .next { t with rl := r } ∧
        CallRemoved n t r) ∧
      (isRecorded c = false → c.seq = some k → c.active = true → Sound t →
        ∃ w, exec (.presetReleaseLink p) s = .next (scan w) ∧ CallEnded n c t w))) ∧
  ((∀ (h : Hdr) (id n : Nat) (c : Call) (s t : State), id < 16 → callOf t id = some c → c.seq = some n →
     (isRecorded c = false → c.active = true → Taken h s t → Sound t →
       ∃ w, exec (.releaseCall h id n) s = .next (reply h (okWith []) (scan w)) ∧ CallEnded id c t w) ∧
     (isRecorded c = false → c.active = false → Taken h s t → ∃ r,
       exec (.releaseCall h id n) s = .next (reply h (okWith []) { t with rl := r }) ∧ CallRemoved id t r) ∧
     (isRecorded c = true → Taken h s t → exec (.releaseCall h id n) s = .next (reply h (refuse .invalid) t)) ∧
     (c.active = false → Taken h s t → ∃ r, exec (.cancelCall h id n) s = .next (reply h (okWith []) { t with rl := r }) ∧ CallRemoved id t r) ∧
     (c.active = true → Taken h s t → exec (.cancelCall h id n) s = .next (reply h (refuse .busy) t))) ∧
   ∀ (id : Nat) (c : Call) (s : State), id < 16 → callOf s id = some c → c.active = false → 0 < c.maxWait → c.maxWait ≤ c.wait →
     ∃ r, exec (.callExpired id) s = .next (raise .callExpired (.num id) { rejoin 1 s with rl := r }) ∧ CallRemoved id s r)

/-- R149, R153 to R156: a call that may activate takes its zones, from every ACTIVE call of lower priority that holds one (preempted in rising slot
order, the model's choice: log 36); those calls are QUEUED again, their routes released, their other zones left free; the programme ducks go their
ways, the call gets its routes at the zones' call levels and, RECORDED, a voice, and the zone events follow. That its discarded wait count is 0 is the
model's choice (log 53). -/
def Obligations.CallsActivateAndPreempt : Prop :=
  ∀ (s : State) (k : Nat) (c : Call), Sound s → callOf s k = some c → c.active = false → mayActivate s c = true →
    let u := (activate k s).1
    let loser (m : Nat) (x : Call) : Prop := callOf s m = some x ∧ x.active = true ∧ x.priority < c.priority ∧ ∃ z ∈ x.zones, z ∈ c.zones
    let freed (z : Nat) : Prop := z ∉ c.zones ∧ ∃ m x, loser m x ∧ z ∈ x.zones
    settings u = settings s ∧ u.rl.order = s.rl.order ∧ u.rl.seq = s.rl.seq ∧ u.rl.presets = s.rl.presets ∧
    (∃ c', callOf u k = some c' ∧ { c' with active := false, wait := c.wait, voice := none, routes := [] } = c ∧ c'.active = true ∧ c'.wait = 0 ∧
      (∀ clip, c.kind = .recorded clip → ∃ v, c'.voice = some v ∧ (voiceOf u v).claimant = some (.call k) ∧ (voiceOf u v).clip = clip ∧
        (voiceOf u v).state = .preloading ∧ (voiceOf u v).startDue = true ∧ (voiceOf u v).cls = 2 ∧ (voiceOf u v).mode = .once ∧
        (voiceOf u v).startLevel = 0 ∧ (voiceOf u v).offset = 0) ∧
      (isRecorded c = false → c'.voice = none) ∧
      (∀ z ∈ c.zones, z ∈ c'.routes ↔ ∃ n r, routeAt u n = some r ∧ r.src = callSource c' ∧ r.dst = 56 + z) ∧
      (∀ z n r, z ∈ c'.routes → routeAt u n = some r → r.src = callSource c' → r.dst = 56 + z →
        r = { state := .live, src := callSource c', dst := 56 + z, owner := .relay, base := .step (zoneOf s z).call, trim := 0, mute := false
              duck := 0, set := (zoneOf s z).set, prot := false, fade := none, duckFade := none, batch := none, last := none }) ∧
      (generalCount s + c.zones.length ≤ 944 → (∀ z ∈ c.zones, destCount s (56 + z) < 64) → c'.routes = c.zones)) ∧
    (∀ m x, loser m x →
      callOf u m = some { x with active := false, wait := 0, voice := none, started := false, routes := [] } ∧
      ∀ n r, routeAt s n = some r → r.src = callSource x → (∃ z ∈ x.routes, r.dst = 56 + z) → genOf u n = (genOf s n + 1) % 65536) ∧
    (∀ m x, m ≠ k → callOf s m = some x → ¬loser m x → callOf u m = some x) ∧
    (∀ z, (z ∈ c.zones → zoneOf u z = { zoneOf s z with holder := some k }) ∧ (freed z → zoneOf u z = { zoneOf s z with holder := none }) ∧
      (z ∉ c.zones → ¬freed z → zoneOf u z = zoneOf s z)) ∧
    (∀ n r z, routeAt s n = some r → r.src = pgmt → r.dst = 56 + z →
      (z ∈ c.zones → routeAt u n = some { r with duckFade := some ⟨r.duck, c.duck, (zoneOf s z).attack, 0⟩ }) ∧
      (freed z → routeAt u n = some { r with duckFade := some ⟨r.duck, 0, (zoneOf s z).release, 0⟩ })) ∧
    (∀ n r, routeAt s n = some r → isVoice r.src = false → isAnnounce r.src = false → (r.src = pgmt → ¬isRelayDst r.dst = true) →
      routeAt u n = some r) ∧
    (∃ ms : List Nat, ms.Pairwise (· < ·) ∧ (∀ m, m ∈ ms ↔ ∃ x, loser m x) ∧
      noticeOf u .callPreempted = ms.foldl (fun y m => raisedNotice (.num m) y) (noticeOf s .callPreempted)) ∧
    ((∀ m x, loser m x → x.voice = none) →
      (∀ n r, routeAt s n = some r → r.owner = .relay → r.src ≠ pgmt → r.fade = none ∧ r.batch = none) → s.ef.depth < 5 → ∃ zs : List Nat,
      zs.Pairwise (· < ·) ∧ (∀ z, z ∈ zs ↔ z < 15 ∧ freed z) ∧ u.ef.events = s.ef.events ++
        (zs.map (fun z => InFlight.mk (160 + z) s.ef.depth s.ef.cause []) ++ c.zones.map (fun z => InFlight.mk (144 + z) s.ef.depth s.ef.cause [])))

/-- R153: a QUEUED call may activate where each of its zones is free or held by a call of lower priority and, LIVE, it does not carry the stop
source or, RECORDED, its clip is present, a voice is FREE and no label waits; a scan visits the QUEUED calls by priority and then by arrival, each
as the holdings stand at its visit; it is repeated until none frees a zone or a voice, so that no QUEUED call is left that may activate, and a scan
with none that may changes nothing. A QUEUED call that may activate, and that comes before every QUEUED call it shares a zone with (and, RECORDED,
before every RECORDED one), is ACTIVE after the scan and holds its zones; those it shares a zone with stay QUEUED as they were. -/
def Obligations.ScansActivateWhatMayActivate : Prop :=
  (∀ (s : State) (c : Call), mayActivate s c = true ↔
    (∀ z ∈ c.zones, ∀ h, (zoneOf s z).holder = some h → ∀ x, callOf s h = some x → x.priority < c.priority) ∧
    (∀ i, c.kind = .live i → i ≠ s.ss.stopSource) ∧
    ∀ clip, c.kind = .recorded clip →
      (clipOf s clip).isSome = true ∧ (∃ v, v < 32 ∧ (voiceOf s v).state = .free) ∧ s.ve.waits = []) ∧
  (∀ s : State, Sound s →
    (∀ k, k ∈ queuedCalls s ↔ ∃ c, callOf s k = some c ∧ c.active = false) ∧
    (queuedCalls s).Pairwise (fun a b => ∀ x y, callOf s a = some x → callOf s b = some y →
      y.priority < x.priority ∨ (y.priority = x.priority ∧ [a, b].Sublist s.rl.order))) ∧
  (∀ (s : State) (pre post : List Nat) (k : Nat) (c : Call), queuedCalls s = pre ++ k :: post → callOf s k = some c → mayActivate s c = true →
    (∀ m ∈ pre, ∀ x, callOf s m = some x → mayActivate s x = false) → scanOnce s = post.foldl visit (activate k s)) ∧
  (∀ (s : State) (b : Bool) (k : Nat) (c : Call), callOf s k = some c → c.active = false →
    visit (s, b) k = if mayActivate s c = true then ((activate k s).1, b || (activate k s).2) else (s, b)) ∧
  (∀ s : State, Sound s → scan s = if (scanOnce s).2 = true then scan (scanOnce s).1 else (scanOnce s).1) ∧
  (∀ (s : State) (k : Nat) (c : Call), Sound s → callOf s k = some c → c.active = false → mayActivate s c = true →
    let later (m : Nat) (x : Call) : Prop := x.priority < c.priority ∨ (x.priority = c.priority ∧ [k, m].Sublist s.rl.order)
    let rivals (x : Call) : Prop := ∃ z ∈ x.zones, z ∈ c.zones
    (∀ m x, m ≠ k → callOf s m = some x → x.active = false → rivals x ∨ (isRecorded c = true ∧ isRecorded x = true) → later m x) →
    (∃ c', callOf (scan s) k = some c' ∧ c'.active = true) ∧ (∀ z ∈ c.zones, (zoneOf (scan s) z).holder = some k) ∧
    ∀ m x, m ≠ k → callOf s m = some x → x.active = false → rivals x → callOf (scan s) m = some x) ∧
  (∀ s : State, (∀ k c, k ∈ queuedCalls s → callOf s k = some c → mayActivate s c = false) → scan s = s) ∧
  (∀ (s : State) (k : Nat) (c : Call), queuedCalls s = [k] → callOf s k = some c → c.active = false → mayActivate s c = true →
    (activate k s).2 = false → scan s = (activate k s).1) ∧
  ∀ (s : State) (k : Nat) (c : Call), Sound s → callOf (scan s) k = some c → c.active = false → mayActivate (scan s) c = false

/-! ## Events, contacts, watches -/

/-- R167. -/
def Obligations.RaiseEventEmitsAHostEvent : Prop :=
  ∀ (h : Hdr) (n : Nat) (s t : State), Taken h s t →
    (127 < n → exec (.raiseEvent h n) s = .next (reply h (refuse .invalid) t)) ∧
    (h.port = .b → n ≤ 63 → exec (.raiseEvent h n) s = .next (reply h (refuse .denied) t)) ∧
    (n ≤ 127 → (h.port = .b → 64 ≤ n) → exec (.raiseEvent h n) s = .next (reply h (okWith [])
      { t with ef := { t.ef with events := t.ef.events ++ [⟨256 + n, 1, t.ef.cause, []⟩] } }))

/-- R170 to R172, R174: contact inputs, HOST lines, owners, output functions and watches are set. -/
def Obligations.ContactsAndWatchesAreSet : Prop :=
  ∀ (h : Hdr) (s t : State), h.port = .a →
    (∀ q : InputArgs, Taken h s t → guarded t = false → q.line ≤ 15 → (∀ m ∈ q.mirror, ∀ c ∈ m, c ≤ 31) →
      ∃ x, exec (.setContactInput h q) s = .next (reply h (okAdj (q.settle.any (fun n => 250 < n)) []) { t with ef := { t.ef with inputs := x } }) ∧
        ∀ k, x.read ContactIn.init k = if k = q.line then { inputOf t k with
          rise := q.rise.getD (inputOf t k).rise, fall := q.fall.getD (inputOf t k).fall
          settle := (q.settle.map (min · 250)).getD (inputOf t k).settle
          limiter := q.limiter.getD (inputOf t k).limiter, mirror := q.mirror.getD (inputOf t k).mirror } else inputOf t k) ∧
    (∀ m v, Taken h s t →
      ∃ x a, exec (.setContactOutputs h m v) s = .next (reply h a { t with ef := { t.ef with outputs := x } }) ∧ a.code = .ok ∧
        ∀ l, x.read ContactOut.init l =
          if l < 16 ∧ m.getLsbD l = true ∧ (outputOf t l).fnOwned = false ∧ isLamp t l = false
          then { outputOf t l with high := v.getLsbD l } else outputOf t l) ∧
    (∀ m o, Taken h s t → guarded t = false → o ≤ 1 →
      ∃ x, exec (.setOutputOwner h m o) s = .next (reply h (okWith []) { t with ef := { t.ef with outputs := x } }) ∧
        ∀ l, x.read ContactOut.init l =
          if l < 16 ∧ m.getLsbD l = true then { outputOf t l with fnOwned := o == 1 } else outputOf t l) ∧
    (∀ f e a b, Taken h s t → guarded t = false → f ≤ 7 →
      ∃ x, exec (.setOutputFunction h f e a b) s = .next (reply h (okWith []) { t with ef := { t.ef with fns := x } }) ∧
        ∀ k, x.read OutputFn.init k = if k = f then
          ⟨e.getD (fnOf t f).trigger, a.getD (fnOf t f).setMask, b.getD (fnOf t f).clearMask⟩ else fnOf t k) ∧
    (∀ q : WatchArgs, Taken h s t → guarded t = false → badWatch q = false →
      ∃ x a, exec (.setWatch h q) s = .next (reply h a { t with ef := { t.ef with watches := x } }) ∧ a.code = .ok ∧
        ∀ k, x.read Watch.init k = if k = q.watch then
          { kind := if q.kind = 0 then .meter q.src (clampInt (-1472) 0 q.low) (clampInt (-1472) 0 q.high) else .contacts q.mask q.pattern
            trigger := q.trigger, mode := (watchModeOf q.mode).getD .off, pair := q.pair, last := none } else watchOf t k)

/-- R172, R173: a delivery drives the FUNCTION lines of a function's masks; one to a watch evaluates it, a METER watch by the meter's level and a
CONTACTS watch by the settled levels, writes its pair, emits its event by its mode and records its result. R82: an event that reaches the standby's
EVENT trigger sets a pending trigger that counts from 0, where none is pending. How an event in flight is kept and taken is the model's reading (log
4). -/
def Obligations.DeliveriesReachTheirConsumers : Prop :=
  (∀ (s : State) (k : WatchKind), watchResult s k = true ↔ match k with
    | .meter src low high => ∃ m, s.le.meters.read .off src = .step m ∧ low ≤ m ∧ m ≤ high
    | .contacts mask pattern => ∀ i, i < 16 → mask.getLsbD i = true → (inputOf s i).settled = pattern.getLsbD i) ∧
  ((∀ (f : Nat) (e : InFlight) (s t : State), Delivered (.fn f) e s t → f < 8 →
     ∃ x, exec (.outputFunction f) s = .next { t with ef := { t.ef with outputs := x } } ∧
       ∀ l, x.read ContactOut.init l =
         if l < 16 ∧ (outputOf t l).fnOwned = true ∧ isLamp t l = false then { outputOf t l with
           high := match (fnOf t f).setMask.getLsbD l, (fnOf t f).clearMask.getLsbD l with
             | true, true => !(outputOf t l).high
             | true, false => true
             | false, true => false
             | false, false => (outputOf t l).high } else outputOf t l) ∧
   ∀ (w : Nat) (e : InFlight) (s t : State), Delivered (.watch w) e s t → w < 16 →
     ((watchOf t w).mode = .off → exec (.watchEvaluation w) s = .next t) ∧
     ((watchOf t w).mode ≠ .off → (∀ a b, (watchOf t w).pair = some (a, b) → a ≠ b ∧ a ≤ 31 ∧ b ≤ 31) → t.ef.depth < 5 →
       let r := watchResult t (watchOf t w).kind
       ∃ u, exec (.watchEvaluation w) s = .next u ∧
         u = { t with cf := { t.cf with values := u.cf.values }, ef := { t.ef with watches := u.ef.watches, events := u.ef.events } } ∧
         (∀ k, watchOf u k = if k = w then { watchOf t w with
           last := some r, mode := if (watchOf t w).mode = .once then .off else (watchOf t w).mode } else watchOf t k) ∧
         u.ef.events = t.ef.events ++
           (if (watchOf t w).mode = .change ∧ (watchOf t w).last = some r then []
            else [⟨(if r then 97 else 96) + 2 * w, t.ef.depth, t.ef.cause, []⟩]) ∧
         ((watchOf t w).pair = none → u.cf = t.cf) ∧
         ∀ a b, (watchOf t w).pair = some (a, b) → ∀ k, k ≤ 31 →
           condOf u k = if k = 0 then true else if k = a then r else if k = b then !r else condOf t k)) ∧
  (∀ (l n : Nat) (e : InFlight) (c : Cue) (s t : State), Delivered (.trigger l) e s t → l ≤ 3 → standbyCue t l = some (n, c) →
     ∃ x, exec (.eventTriggerArrival l) s = .next { t with cq := { t.cq with lists := x } } ∧
       ∀ m, x.read CueList.init m = if m = l then { listOf t l with
         trigger := some ((listOf t l).trigger.getD ⟨.event e.depth, .counting 0, c.delay, false⟩) } else listOf t m)

/-- R169: a change of a line is accepted at once, waits for its settle interval, or is forgotten when the line returns; a waiting change that a
boundary found acceptable is accepted. Acceptance writes the mirror and emits the enabled edge events. A change of the line is a cause of its own,
and the end of a settle interval belongs to the boundary's (log 4). A change to the level the line already has begins a cause and does nothing more
(the model's choice, log 5). That a boundary's end is a command of its own is the model's choice (log 1). -/
def Obligations.ContactChangesAreAccepted : Prop :=
  ∀ (s : State) (l : Nat), l < 16 →
    let c := inputOf s l
    let accepted (o : State) (level : Bool) (u : State) : Prop :=
      u = { o with cf := { s.cf with values := u.cf.values }, ef := { o.ef with inputs := u.ef.inputs, events := u.ef.events } } ∧
      (∀ k, inputOf u k = if k = l then { c with
        raw := level, settled := level, waiting := false, settleDue := false
        sinceRise := if level then some 0 else c.sinceRise, sinceFall := if level then c.sinceFall else some 0 } else inputOf s k) ∧
      u.ef.events = o.ef.events ++ (if (if level then c.rise else c.fall) then
        [⟨(if level then 1 else 17) + l, 1, o.ef.cause, []⟩, ⟨33 + l, 1, o.ef.cause, []⟩] else []) ∧
      ∀ k, k ≤ 31 → condOf u k = if k ≠ 0 ∧ c.mirror = some k then level else condOf s k
    (∀ level, level = c.raw → exec (.contactChange l level) s = .next (begin 1 s)) ∧
    (∀ level, level ≠ c.raw → level = c.settled →
      ∃ x, exec (.contactChange l level) s = .next { begin 1 s with ef := { (begin 1 s).ef with inputs := x } } ∧
        ∀ k, x.read ContactIn.init k = if k = l then { c with raw := level, waiting := false, settleDue := false } else inputOf s k) ∧
    (∀ level, level ≠ c.raw → level ≠ c.settled →
      (c.limiter = false ∨ ∀ n ∈ (if level then c.sinceRise else c.sinceFall), c.settle ≤ n) →
      ∃ u, exec (.contactChange l level) s = .next u ∧ accepted (begin 1 s) level u) ∧
    (∀ level n, level ≠ c.raw → level ≠ c.settled → c.limiter = true → (if level then c.sinceRise else c.sinceFall) = some n → n < c.settle →
      ∃ x, exec (.contactChange l level) s = .next { begin 1 s with ef := { (begin 1 s).ef with inputs := x } } ∧
        ∀ k, x.read ContactIn.init k = if k = l then { c with raw := level, waiting := true, settleDue := false } else inputOf s k) ∧
    (c.settleDue = true → ∃ u, exec (.contactSettle l) s = .next u ∧ accepted (rejoin 1 s) c.raw u)

/-! ## Show state and notices -/

/-- R177, R179, R180: the lock, the key and the stop configuration, with the refusals of SetStopConfig: INVALID, HELD, LOCKED and BUSY, in that order.
A change of the key is a cause of its own (log 4); one to the level the line has begins a cause and does nothing more (the model's choice, log 5). The
subject of KEY is 1 for asserted and 0 for released (the model's choice, log 19). -/
def Obligations.LockKeyAndStopConfigAreTaken : Prop :=
  (∀ (h : Hdr) (s t : State), h.port = .a →
    (Taken h s t → exec (.lockShow h) s = .next (if t.ss.locked then reply h (refuse .nochange) t else
      reply h (okWith []) (emit 178 { t with ss := { t.ss with locked := true } }))) ∧
    (Taken h s t → exec (.unlockShow h) s = .next (
      if t.ss.locked = false then reply h (refuse .nochange) t
      else if t.ss.key = false then reply h (refuse .keyreq) t
      else reply h (okWith []) (emit 179 { t with ss := { t.ss with locked := false } }))) ∧
    (∀ q : StopArgs, Taken h s t →
      let gives (e : Code) : Prop := exec (.setStopConfig h q) s = .next (reply h (refuse e) t)
      let unknown : Prop := (∃ n, q.src = some n ∧ (n < 96 ∨ 99 < n)) ∨ ∃ m, q.mask = some m ∧ 2 ^ 24 ≤ m.toNat
      (unknown → gives .invalid) ∧ (¬unknown → t.ss.stopped = true → gives .held) ∧
      (¬unknown → t.ss.stopped = false → t.ss.locked = true → t.ss.key = false → gives .locked) ∧
      (¬unknown → t.ss.stopped = false → t.ss.locked = false ∨ t.ss.key = true →
        (∃ n, q.src = some n ∧ n ≠ t.ss.stopSource ∧ ∃ p ∈ t.rt.routes, p.2.src = n ∧ p.2.owner ≠ .showstop) → gives .busy)) ∧
    (∀ q : StopArgs, Taken h s t → badStop q = false → t.ss.stopped = false → guarded t = false →
      (∀ n, q.src = some n → n ≠ t.ss.stopSource → ∀ p ∈ t.rt.routes, p.2.src = n → p.2.owner = .showstop) →
      exec (.setStopConfig h q) s = .next (reply h
        (okAdj ([q.aud, q.fold, q.relay].any (fun o => o.any (fun v => v < -1024 || 192 < v))) []) { t with ss := { t.ss with
          stopSource := q.src.getD t.ss.stopSource
          audLevel := (q.aud.map (clampInt (-1024) 192)).getD t.ss.audLevel
          foldLevel := (q.fold.map (clampInt (-1024) 192)).getD t.ss.foldLevel
          relayLevel := (q.relay.map (clampInt (-1024) 192)).getD t.ss.relayLevel
          audMask := (q.mask.map (·.setWidth 24)).getD t.ss.audMask } }))) ∧
  ∀ (s : State) (level : Bool),
    (level = s.ss.key → exec (.keyChange level) s = .next (begin 1 s)) ∧
    (level ≠ s.ss.key → exec (.keyChange level) s = .next (raise .key (.num level.toNat) { begin 1 s with
      ss := { s.ss with key := level }
      ef := { (begin 1 s).ef with events := awaited s ++ [⟨if level then 180 else 181, 1, s.ef.causes + 1, []⟩] } }))

/-- R181, R182, R183: a stop asked for by a request or by the stop link is taken while the show runs, and a resume while it is stopped; the other
way round a request is answered NOCHANGE and a delivery does nothing. R161, R162: the calls, routes, ducks, lamps, voices and events of both stand in
`StopTaken` and `ResumeTaken`. The SHOWSTOP routes take slots that were FREE before the preempted calls' routes are released (the model's choice, log
38), and a voice stopped while its ramp comes up keeps the state recorded at its first stop (the model's reading, log 31). R119: a voice of a running
label whose start a boundary marked and the stop finds not taken bears no mark after the stop, nor after the resume, until a boundary marks it anew
(the mark is the model's, log 22). The stop call's wait count is 0 (the model's choice, log 53). How an event in flight is kept and taken is the
model's reading (log 4). -/
def Obligations.StopsAndResumesAreTaken : Prop :=
  (∀ (h : Hdr) (s t : State),
    (Taken h s t → t.ss.stopped = true → exec (.showStop h) s = .next (reply h (refuse .nochange) t)) ∧
    (Taken h s t → t.ss.stopped = false → RecordsOrdered t → CapacityHeld t →
      ∃ u, exec (.showStop h) s = .next (reply h (okWith []) u) ∧ StopTaken (.port h.port) (portCode h.port) t u) ∧
    (Taken h s t → t.ss.stopped = false → exec (.showResume h) s = .next (reply h (refuse .nochange) t)) ∧
    (Taken h s t → t.ss.stopped = true → RecordsOrdered t →
      ∃ u, exec (.showResume h) s = .next (reply h (okWith []) u) ∧ ResumeTaken t u)) ∧
  ∀ (e : InFlight) (s t : State),
    (Delivered .stop e s t → t.ss.stopped = true → exec .stopLink s = .next t) ∧
    (Delivered .stop e s t → t.ss.stopped = false → RecordsOrdered t → CapacityHeld t →
      ∃ u, exec .stopLink s = .next u ∧ StopTaken .stopLink 2 t u) ∧
    (Delivered .resume e s t → t.ss.stopped = false → exec .resumeLink s = .next t) ∧
    (Delivered .resume e s t → t.ss.stopped = true → RecordsOrdered t → ∃ u, exec .resumeLink s = .next u ∧ ResumeTaken t u)

/-- R184, R24, R62, R89, R110, R128, R163, R176: PresetShow, taken, brings every block to its preset values; the rest of each block stands. From a
sound state the standbys claim the voices from V0 up, in list order 0 to 3 and within a cue in the order of its PLAY actions, one voice for each whose
clip is present, and no label waits; a list whose standby has no such action is PRIMED and emits its event, any other PRELOADING. -/
def Obligations.PresetShowStartsThePerformance : Prop :=
  ∀ (h : Hdr) (s t : State), h.port = .a → Taken h s t → guarded t = false → RecordsOrdered t →
    ∃ u, exec (.presetShow h) s = .next (reply h (okWith []) u) ∧
      settings u = { settings t with
        ss := { t.ss with stopped := false, stopCause := none }
        cf := { t.cf with values := [] }
        ef := { (settings t).ef with watches := u.ef.watches } } ∧
      u.ef = { t.ef with watches := u.ef.watches, outputs := u.ef.outputs, events := t.ef.events ++
        ((List.range 4).filter (fun l => (listOf u l).state = .primed)).map (fun l => InFlight.mk (132 + l) 1 t.ef.cause []) } ∧
      u.nt = t.nt ∧ u.ru = { t.ru with batches := [] } ∧ u.cf.values = t.cf.presets ∧
      u.rl.calls = [] ∧ u.rl.order = [] ∧ u.rl.seq = t.rl.seq ∧
      (∀ n r, routeAt t n = some r →
        if r.state = .retiring ∨ ownedByCue r.owner = true ∨ r.owner = .showstop ∨ isVoice r.src = true ∨ (r.owner = .relay ∧ isAnnounce r.src = true)
        then routeAt u n = none ∧ genOf u n = (genOf t n + 1) % 65536
        else routeAt u n = some { r with base := (r.fade.map (·.b)).getD r.base, fade := none, duck := 0, duckFade := none } ∧ genOf u n = genOf t n) ∧
      (∀ n, routeAt t n = none → routeAt u n = none ∧ genOf u n = genOf t n) ∧
      (∀ k, u.cq.cues.find k = (t.cq.cues.find k).map (fun c => { c with outcome := none })) ∧
      (∀ l, l ≤ 3 → (listOf u l).running = [] ∧ (listOf u l).sinceGo = none ∧ (listOf u l).trigger = none ∧
        (listOf u l).standby = cueFrom t l 0 ∧ (cueFrom t l 0 = none → (listOf u l).state = .empty) ∧
        (cueFrom t l 0 ≠ none → (listOf u l).state = .preloading ∨ (listOf u l).state = .primed) ∧
        (listOf u l).takes = (listOf t l).takes ∧ (listOf u l).guard = (listOf t l).guard ∧ (listOf u l).promptGo = (listOf t l).promptGo) ∧
      (∀ n, ((voiceOf u n).state = .free → voiceOf u n = if (voiceOf t n).state = .free then voiceOf t n else { voiceOf t n with
          state := .free, claimant := none, buffer := [], fade := none, ramp := none, startDue := false, startAligned := false
          underruns := 0, inUnderrun := false, exitAt := none, fadeInBy := none, atEnd := false, starting := false, ending := false }) ∧
        ((voiceOf u n).state ≠ .free → (voiceOf u n).state = .preloading ∧
          ∃ l k x, (voiceOf u n).claimant = some (.standby l k x) ∧ l ≤ 3 ∧ cueFrom t l 0 = some k)) ∧
      (∀ w ∈ u.ve.waits, w.list ≤ 3 ∧ cueFrom t w.list 0 = some w.number) ∧
      (Sound t →
        let claims (l : Nat) : List (Claim × Clip) := match cueFrom t l 0 with
          | none => []
          | some k => ((cueOf t l k).map (·.actions)).getD [] |>.filterMap (fun a => match a.kind with
            | .play label clip offset mode level fadeIn => (clipOf t clip).map (fun y =>
                (⟨.standby l k label, clip, offset, (modeOf mode).getD .once, level, fadeIn,
                  if (cueOf t l k).any (·.priority) = true then 2 else 3, false⟩, y))
            | _ => none)
        let all := (List.range 4).flatMap claims
        (∀ n q y, all[n]? = some (q, y) → n < 32 ∧ voiceOf u n = claimedVoice y q) ∧ (∀ n, all.length ≤ n → (voiceOf u n).state = .free) ∧
        u.ve.waits = [] ∧
        ∀ l, l ≤ 3 → cueFrom t l 0 ≠ none → ((listOf u l).state = .primed ↔ claims l = [])) ∧
      (∀ n c, u.smp.requests.find n = some c → (voiceOf u n).state = .preloading ∧ (voiceOf u n).cls = c) ∧ u.smp.write = t.smp.write ∧
      (∀ v a k c x, t.smp.transfer = some (.fetch v a k c x) → u.smp.transfer = some (.fetch v a k c true)) ∧
      (∀ w, t.smp.transfer = some (.write w) → u.smp.transfer = some (.write w)) ∧
      (∀ l, l < 16 → (outputOf u l).fnOwned = (outputOf t l).fnOwned ∧
        (outputOf u l).high = ((outputOf t l).high && !(outputOf t l).fnOwned && !isLamp t l)) ∧
      (∀ k, callPresetOf u k = { callPresetOf t k with placed := none }) ∧ (∀ k, setOf u k = { setOf t k with flags := Flags.none }) ∧
      (∀ z, zoneOf u z = { zoneOf t z with holder := none }) ∧ ∀ k, watchOf u k = { watchOf t k with last := none }

/-- R192: what raising a notice makes of its kind, and of no other. R193, R194: the NOTIFY line, the nodes, and the fetch of the notices. The layout
of a reply's payload is the model's choice (log 19). -/
def Obligations.NoticesAreRaisedAndFetched : Prop :=
  (∀ (k : NoticeKind) (subj : Subject) (s : State),
     noticeOf (raise k subj s) k = ⟨true, min ((noticeOf s k).count + 1) 255, some subj⟩ ∧
     (∀ j, j ≠ k → noticeOf (raise k subj s) j = noticeOf s j) ∧ raise k subj s = { s with nt := (raise k subj s).nt } ∧
     (raise k subj s).nt.nodes = s.nt.nodes) ∧
  ((∀ s : State, notify s = true ↔ ∃ n k, n < 4 ∧ k < 19 ∧ (nodeOf s n).enable = true ∧ (nodeOf s n).mask.getLsbD k = true ∧
     (noticeAt s k).pending = true) ∧
   (∀ (h : Hdr) (n : Nat) (e : Option Bool) (m : Option (BitVec 32)) (s t : State), h.port = .a → Taken h s t →
     n ≤ 3 → (∀ x ∈ m, x.toNat < 2 ^ 19) →
     ∃ x, exec (.setNoticeNode h n e m) s = .next (reply h (okWith []) { t with nt := { t.nt with nodes := x } }) ∧
       ∀ k, x.read Node.init k = if k = n then ⟨e.getD (nodeOf t n).enable, (m.map (·.setWidth 19)).getD (nodeOf t n).mask⟩ else nodeOf t k) ∧
   ∀ (h : Hdr) (s t : State), h.port = .a → Taken h s t → t.nt.kinds.rising = true →
     let due := (List.range 19).filter (fun k => (noticeAt t k).pending)
     ∃ x, exec (.fetchNotices h) s = .next (reply h (okWith (u1 due.length ::
           due.flatMap (fun k => [u1 k, u2 (noticeAt t k).count] ++ subjectItems (noticeAt t k).subject)))
         { t with nt := { t.nt with kinds := x } }) ∧
       ∀ k, x.read Notice.init k = if (noticeAt t k).pending then { noticeAt t k with pending := false, count := 0 } else noticeAt t k)
end

