-- ==== Sys2Proof/Laws/Table.lean ====
section
/-! SUPPORT. What the operations on sparse tables do: read after write, every other number untouched, rising order and canonical form kept. -/

namespace Sys2Proof

variable {α : Type}

@[simp] theorem Table.find_nil (k : Nat) : Table.find ([] : Table α) k = none := rfl

theorem Table.find_cons (i : Nat) (w : α) (t : Table α) (j : Nat) :
    Table.find ((i, w) :: t) j = if i = j then some w else Table.find t j := rfl

theorem Table.find_store (t : Table α) (k : Nat) (v : α) (j : Nat) :
    Table.find (Table.store t k v) j = if j = k then some v else Table.find t j := by
  induction t with
  | nil => simp only [Table.store, Table.find_cons, eq_comm]
  | cons p t ih =>
    obtain ⟨i, w⟩ := p
    unfold Table.store
    split
    · simp only [Table.find_cons, eq_comm (a := k)]
    · split
      · next h => subst h; simp only [Table.find_cons, eq_comm (a := j)]; split <;> rfl
      · next h =>
        simp only [Table.find_cons, ih]
        by_cases hi : i = j
        · subst hi; rw [if_pos rfl, if_pos rfl, if_neg h]
        · rw [if_neg hi, if_neg hi]

@[simp] theorem Table.find_store_self (t : Table α) (k : Nat) (v : α) : Table.find (Table.store t k v) k = some v := by
  simp [Table.find_store]

theorem Table.find_remove (t : Table α) (k j : Nat) : Table.find (Table.remove t k) j = if j = k then none else Table.find t j := by
  induction t with
  | nil => simp [Table.remove]
  | cons p t ih =>
    obtain ⟨i, w⟩ := p
    unfold Table.remove at *
    by_cases h : i = k
    · subst h
      simp only [List.filter_cons, ne_eq, not_true_eq_false, decide_false, Bool.false_eq_true, if_false, ih, Table.find_cons, eq_comm (a := j)]
      split <;> rfl
    · simp only [List.filter_cons, ne_eq, h, not_false_eq_true, decide_true, if_true, Table.find_cons, ih]
      by_cases hi : i = j
      · subst hi; rw [if_pos rfl, if_pos rfl, if_neg h]
      · rw [if_neg hi, if_neg hi]

/-- A read after a write: the written value at its number, every other number as before. -/
theorem Table.read_write [DecidableEq α] (d : α) (t : Table α) (k : Nat) (v : α) (j : Nat) :
    Table.read d (Table.write d t k v) j = if j = k then v else Table.read d t j := by
  unfold Table.read Table.write
  split
  · simp only [Table.find_remove]; split <;> simp_all
  · simp only [Table.find_store]; split <;> simp_all

@[simp] theorem Table.read_write_self [DecidableEq α] (d : α) (t : Table α) (k : Nat) (v : α) :
    Table.read d (Table.write d t k v) k = v := by simp [Table.read_write]

@[simp] theorem Table.read_nil (d : α) (k : Nat) : Table.read d ([] : Table α) k = d := rfl

theorem Table.find_mapAll (f : Nat → α → α) (t : Table α) (k : Nat) : Table.find (Table.mapAll f t) k = (Table.find t k).map (f k) := by
  induction t with
  | nil => rfl
  | cons p t ih =>
    obtain ⟨i, w⟩ := p
    simp only [Table.mapAll, List.map_cons, Table.find]
    split
    · subst_vars; rfl
    · simpa [Table.mapAll] using ih

/-! ## Order and canonical form -/

/-- Rising order said of the whole list. -/
theorem Table.rising_iff (t : Table α) : Table.rising t = true ↔ (t.map (·.1)).Pairwise (· < ·) := by
  induction t with
  | nil => simp [Table.rising]
  | cons p t ih =>
    obtain ⟨i, v⟩ := p
    cases t with
    | nil => simp [Table.rising]
    | cons q t =>
      obtain ⟨j, w⟩ := q
      simp only [Table.rising, Bool.and_eq_true, decide_eq_true_eq, ih, List.map_cons, List.pairwise_cons]
      constructor
      · rintro ⟨h, h1, h2⟩
        refine ⟨?_, h1, h2⟩
        intro a ha
        rcases List.mem_cons.1 ha with rfl | ha
        · exact h
        · exact lt_trans h (h1 a ha)
      · rintro ⟨h, h1, h2⟩
        exact ⟨h j (by simp), h1, h2⟩

theorem Table.keys_store (t : Table α) (k : Nat) (v : α) (j : Nat) :
    j ∈ (Table.store t k v).map (·.1) → j = k ∨ j ∈ t.map (·.1) := by
  induction t with
  | nil => simp [Table.store]
  | cons p t ih =>
    obtain ⟨i, w⟩ := p
    unfold Table.store
    split
    · simp
    · split
      · simp; rintro (h | h)
        · exact .inl h
        · exact .inr (.inr h)
      · simp only [List.map_cons, List.mem_cons]
        rintro (h | h)
        · exact .inr (.inl h)
        · rcases ih h with h | h
          · exact .inl h
          · exact .inr (.inr h)

theorem Table.rising_store (t : Table α) (k : Nat) (v : α) (h : Table.rising t = true) : Table.rising (Table.store t k v) = true := by
  rw [Table.rising_iff] at *
  induction t with
  | nil => simp [Table.store]
  | cons p t ih =>
    obtain ⟨i, w⟩ := p
    simp only [List.map_cons, List.pairwise_cons] at h
    unfold Table.store
    split
    · next hk =>
      simp only [List.map_cons, List.pairwise_cons]
      refine ⟨?_, h⟩
      intro a ha
      rcases List.mem_cons.1 ha with rfl | ha
      · exact hk
      · exact lt_trans hk (h.1 a ha)
    · split
      · next hk => subst hk; simpa using h
      · next h1 h2 =>
        simp only [List.map_cons, List.pairwise_cons]
        refine ⟨?_, ih h.2⟩
        intro a ha
        rcases Table.keys_store t k v a ha with rfl | ha
        · omega
        · exact h.1 a ha

theorem Table.rising_filter (t : Table α) (p : Nat × α → Bool) (h : Table.rising t = true) : Table.rising (t.filter p) = true := by
  rw [Table.rising_iff] at *
  exact h.sublist (List.filter_sublist.map _)

theorem Table.rising_remove (t : Table α) (k : Nat) (h : Table.rising t = true) : Table.rising (Table.remove t k) = true :=
  Table.rising_filter t _ h

theorem Table.mem_store {t : Table α} {k : Nat} {v : α} {p : Nat × α} (h : p ∈ Table.store t k v) : p = (k, v) ∨ p ∈ t := by
  induction t with
  | nil => simpa [Table.store] using h
  | cons q t ih =>
    obtain ⟨i, w⟩ := q
    unfold Table.store at h
    split at h
    · simpa using h
    · split at h
      · rcases List.mem_cons.1 h with h | h
        · exact .inl h
        · exact .inr (List.mem_cons_of_mem _ h)
      · rcases List.mem_cons.1 h with h | h
        · exact .inr (h ▸ List.mem_cons_self)
        · rcases ih h with h | h
          · exact .inl h
          · exact .inr (List.mem_cons_of_mem _ h)

/-- A write keeps the canonical form. -/
theorem Table.wf_write [DecidableEq α] (d : α) (t : Table α) (k : Nat) (v : α) (h : Table.wf d t = true) :
    Table.wf d (Table.write d t k v) = true := by
  simp only [Table.wf, Bool.and_eq_true, List.all_eq_true, decide_eq_true_eq] at *
  unfold Table.write
  split
  · exact ⟨Table.rising_remove t k h.1, fun p hp => h.2 p (List.mem_of_mem_filter hp)⟩
  · next hv =>
    refine ⟨Table.rising_store t k v h.1, fun p hp => ?_⟩
    rcases Table.mem_store hp with rfl | hp
    · exact hv
    · exact h.2 p hp

end Sys2Proof
end

