-- ==== Sys2Proof/Laws/State.lean ====
section
/-! SUPPORT. What each update of the state leaves alone, field by field (a conjunction is one rewriting rule a field), and what each
record reads after it. -/

namespace Sys2Proof.Machine

variable (s : State)

@[simp] theorem updRoute_others (h : Nat) (f : Route → Route) :
    (updRoute h f s).pending = s.pending ∧ (updRoute h f s).ready = s.ready ∧ (updRoute h f s).portA = s.portA ∧
    (updRoute h f s).portB = s.portB ∧ (updRoute h f s).le = s.le ∧ (updRoute h f s).ru = s.ru ∧ (updRoute h f s).cq = s.cq ∧
    (updRoute h f s).cf = s.cf ∧ (updRoute h f s).ve = s.ve ∧ (updRoute h f s).smp = s.smp ∧ (updRoute h f s).fb = s.fb ∧
    (updRoute h f s).rl = s.rl ∧ (updRoute h f s).ef = s.ef ∧ (updRoute h f s).ss = s.ss ∧ (updRoute h f s).nt = s.nt :=
  ⟨rfl, rfl, rfl, rfl, rfl, rfl, rfl, rfl, rfl, rfl, rfl, rfl, rfl, rfl, rfl⟩

@[simp] theorem updVoice_others (n : Nat) (f : Voice → Voice) :
    (updVoice n f s).pending = s.pending ∧ (updVoice n f s).ready = s.ready ∧ (updVoice n f s).portA = s.portA ∧
    (updVoice n f s).portB = s.portB ∧ (updVoice n f s).rt = s.rt ∧ (updVoice n f s).le = s.le ∧ (updVoice n f s).ru = s.ru ∧
    (updVoice n f s).cq = s.cq ∧ (updVoice n f s).cf = s.cf ∧ (updVoice n f s).smp = s.smp ∧ (updVoice n f s).fb = s.fb ∧
    (updVoice n f s).rl = s.rl ∧ (updVoice n f s).ef = s.ef ∧ (updVoice n f s).ss = s.ss ∧ (updVoice n f s).nt = s.nt :=
  ⟨rfl, rfl, rfl, rfl, rfl, rfl, rfl, rfl, rfl, rfl, rfl, rfl, rfl, rfl, rfl⟩

@[simp] theorem updList_others (l : Nat) (f : CueList → CueList) :
    (updList l f s).pending = s.pending ∧ (updList l f s).ready = s.ready ∧ (updList l f s).portA = s.portA ∧
    (updList l f s).portB = s.portB ∧ (updList l f s).rt = s.rt ∧ (updList l f s).le = s.le ∧ (updList l f s).ru = s.ru ∧
    (updList l f s).cf = s.cf ∧ (updList l f s).ve = s.ve ∧ (updList l f s).smp = s.smp ∧ (updList l f s).fb = s.fb ∧
    (updList l f s).rl = s.rl ∧ (updList l f s).ef = s.ef ∧ (updList l f s).ss = s.ss ∧ (updList l f s).nt = s.nt :=
  ⟨rfl, rfl, rfl, rfl, rfl, rfl, rfl, rfl, rfl, rfl, rfl, rfl, rfl, rfl, rfl⟩

@[simp] theorem updSet_others (n : Nat) (f : StatusSet → StatusSet) :
    (updSet n f s).pending = s.pending ∧ (updSet n f s).ready = s.ready ∧ (updSet n f s).portA = s.portA ∧
    (updSet n f s).portB = s.portB ∧ (updSet n f s).rt = s.rt ∧ (updSet n f s).ru = s.ru ∧ (updSet n f s).cq = s.cq ∧
    (updSet n f s).cf = s.cf ∧ (updSet n f s).ve = s.ve ∧ (updSet n f s).smp = s.smp ∧ (updSet n f s).fb = s.fb ∧
    (updSet n f s).rl = s.rl ∧ (updSet n f s).ef = s.ef ∧ (updSet n f s).ss = s.ss ∧ (updSet n f s).nt = s.nt :=
  ⟨rfl, rfl, rfl, rfl, rfl, rfl, rfl, rfl, rfl, rfl, rfl, rfl, rfl, rfl, rfl⟩

@[simp] theorem updMix_others (m : Nat) (f : Mix → Mix) :
    (updMix m f s).pending = s.pending ∧ (updMix m f s).ready = s.ready ∧ (updMix m f s).portA = s.portA ∧
    (updMix m f s).portB = s.portB ∧ (updMix m f s).rt = s.rt ∧ (updMix m f s).le = s.le ∧ (updMix m f s).ru = s.ru ∧
    (updMix m f s).cq = s.cq ∧ (updMix m f s).cf = s.cf ∧ (updMix m f s).ve = s.ve ∧ (updMix m f s).smp = s.smp ∧
    (updMix m f s).rl = s.rl ∧ (updMix m f s).ef = s.ef ∧ (updMix m f s).ss = s.ss ∧ (updMix m f s).nt = s.nt :=
  ⟨rfl, rfl, rfl, rfl, rfl, rfl, rfl, rfl, rfl, rfl, rfl, rfl, rfl, rfl, rfl⟩

@[simp] theorem updPanel_others (a : Nat) (f : Panel → Panel) :
    (updPanel a f s).pending = s.pending ∧ (updPanel a f s).ready = s.ready ∧ (updPanel a f s).portA = s.portA ∧
    (updPanel a f s).portB = s.portB ∧ (updPanel a f s).rt = s.rt ∧ (updPanel a f s).le = s.le ∧ (updPanel a f s).ru = s.ru ∧
    (updPanel a f s).cq = s.cq ∧ (updPanel a f s).cf = s.cf ∧ (updPanel a f s).ve = s.ve ∧ (updPanel a f s).smp = s.smp ∧
    (updPanel a f s).rl = s.rl ∧ (updPanel a f s).ef = s.ef ∧ (updPanel a f s).ss = s.ss ∧ (updPanel a f s).nt = s.nt :=
  ⟨rfl, rfl, rfl, rfl, rfl, rfl, rfl, rfl, rfl, rfl, rfl, rfl, rfl, rfl, rfl⟩

@[simp] theorem updZone_others (z : Nat) (f : Zone → Zone) :
    (updZone z f s).pending = s.pending ∧ (updZone z f s).ready = s.ready ∧ (updZone z f s).portA = s.portA ∧
    (updZone z f s).portB = s.portB ∧ (updZone z f s).rt = s.rt ∧ (updZone z f s).le = s.le ∧ (updZone z f s).ru = s.ru ∧
    (updZone z f s).cq = s.cq ∧ (updZone z f s).cf = s.cf ∧ (updZone z f s).ve = s.ve ∧ (updZone z f s).smp = s.smp ∧
    (updZone z f s).fb = s.fb ∧ (updZone z f s).ef = s.ef ∧ (updZone z f s).ss = s.ss ∧ (updZone z f s).nt = s.nt :=
  ⟨rfl, rfl, rfl, rfl, rfl, rfl, rfl, rfl, rfl, rfl, rfl, rfl, rfl, rfl, rfl⟩

@[simp] theorem updCall_others (c : Nat) (f : Call → Call) :
    (updCall c f s).pending = s.pending ∧ (updCall c f s).ready = s.ready ∧ (updCall c f s).portA = s.portA ∧
    (updCall c f s).portB = s.portB ∧ (updCall c f s).rt = s.rt ∧ (updCall c f s).le = s.le ∧ (updCall c f s).ru = s.ru ∧
    (updCall c f s).cq = s.cq ∧ (updCall c f s).cf = s.cf ∧ (updCall c f s).ve = s.ve ∧ (updCall c f s).smp = s.smp ∧
    (updCall c f s).fb = s.fb ∧ (updCall c f s).ef = s.ef ∧ (updCall c f s).ss = s.ss ∧ (updCall c f s).nt = s.nt :=
  ⟨rfl, rfl, rfl, rfl, rfl, rfl, rfl, rfl, rfl, rfl, rfl, rfl, rfl, rfl, rfl⟩

@[simp] theorem updCallPreset_others (p : Nat) (f : CallPreset → CallPreset) :
    (updCallPreset p f s).pending = s.pending ∧ (updCallPreset p f s).ready = s.ready ∧ (updCallPreset p f s).portA = s.portA ∧
    (updCallPreset p f s).portB = s.portB ∧ (updCallPreset p f s).rt = s.rt ∧ (updCallPreset p f s).le = s.le ∧
    (updCallPreset p f s).ru = s.ru ∧ (updCallPreset p f s).cq = s.cq ∧ (updCallPreset p f s).cf = s.cf ∧
    (updCallPreset p f s).ve = s.ve ∧ (updCallPreset p f s).smp = s.smp ∧ (updCallPreset p f s).fb = s.fb ∧
    (updCallPreset p f s).ef = s.ef ∧ (updCallPreset p f s).ss = s.ss ∧ (updCallPreset p f s).nt = s.nt :=
  ⟨rfl, rfl, rfl, rfl, rfl, rfl, rfl, rfl, rfl, rfl, rfl, rfl, rfl, rfl, rfl⟩

@[simp] theorem updInput_others (i : Nat) (f : ContactIn → ContactIn) :
    (updInput i f s).pending = s.pending ∧ (updInput i f s).ready = s.ready ∧ (updInput i f s).portA = s.portA ∧
    (updInput i f s).portB = s.portB ∧ (updInput i f s).rt = s.rt ∧ (updInput i f s).le = s.le ∧ (updInput i f s).ru = s.ru ∧
    (updInput i f s).cq = s.cq ∧ (updInput i f s).cf = s.cf ∧ (updInput i f s).ve = s.ve ∧ (updInput i f s).smp = s.smp ∧
    (updInput i f s).fb = s.fb ∧ (updInput i f s).rl = s.rl ∧ (updInput i f s).ss = s.ss ∧ (updInput i f s).nt = s.nt :=
  ⟨rfl, rfl, rfl, rfl, rfl, rfl, rfl, rfl, rfl, rfl, rfl, rfl, rfl, rfl, rfl⟩

@[simp] theorem updOutput_others (l : Nat) (f : ContactOut → ContactOut) :
    (updOutput l f s).pending = s.pending ∧ (updOutput l f s).ready = s.ready ∧ (updOutput l f s).portA = s.portA ∧
    (updOutput l f s).portB = s.portB ∧ (updOutput l f s).rt = s.rt ∧ (updOutput l f s).le = s.le ∧ (updOutput l f s).ru = s.ru ∧
    (updOutput l f s).cq = s.cq ∧ (updOutput l f s).cf = s.cf ∧ (updOutput l f s).ve = s.ve ∧ (updOutput l f s).smp = s.smp ∧
    (updOutput l f s).fb = s.fb ∧ (updOutput l f s).rl = s.rl ∧ (updOutput l f s).ss = s.ss ∧ (updOutput l f s).nt = s.nt :=
  ⟨rfl, rfl, rfl, rfl, rfl, rfl, rfl, rfl, rfl, rfl, rfl, rfl, rfl, rfl, rfl⟩

@[simp] theorem updWatch_others (w : Nat) (f : Watch → Watch) :
    (updWatch w f s).pending = s.pending ∧ (updWatch w f s).ready = s.ready ∧ (updWatch w f s).portA = s.portA ∧
    (updWatch w f s).portB = s.portB ∧ (updWatch w f s).rt = s.rt ∧ (updWatch w f s).le = s.le ∧ (updWatch w f s).ru = s.ru ∧
    (updWatch w f s).cq = s.cq ∧ (updWatch w f s).cf = s.cf ∧ (updWatch w f s).ve = s.ve ∧ (updWatch w f s).smp = s.smp ∧
    (updWatch w f s).fb = s.fb ∧ (updWatch w f s).rl = s.rl ∧ (updWatch w f s).ss = s.ss ∧ (updWatch w f s).nt = s.nt :=
  ⟨rfl, rfl, rfl, rfl, rfl, rfl, rfl, rfl, rfl, rfl, rfl, rfl, rfl, rfl, rfl⟩

@[simp] theorem setTimer_others (t n : Nat) :
    (setTimer t n s).pending = s.pending ∧ (setTimer t n s).ready = s.ready ∧ (setTimer t n s).portA = s.portA ∧
    (setTimer t n s).portB = s.portB ∧ (setTimer t n s).rt = s.rt ∧ (setTimer t n s).le = s.le ∧ (setTimer t n s).ru = s.ru ∧
    (setTimer t n s).cq = s.cq ∧ (setTimer t n s).cf = s.cf ∧ (setTimer t n s).ve = s.ve ∧ (setTimer t n s).smp = s.smp ∧
    (setTimer t n s).fb = s.fb ∧ (setTimer t n s).rl = s.rl ∧ (setTimer t n s).ss = s.ss ∧ (setTimer t n s).nt = s.nt :=
  ⟨rfl, rfl, rfl, rfl, rfl, rfl, rfl, rfl, rfl, rfl, rfl, rfl, rfl, rfl, rfl⟩

@[simp] theorem writeCond_others (c : Nat) (v : Bool) :
    (writeCond c v s).pending = s.pending ∧ (writeCond c v s).ready = s.ready ∧ (writeCond c v s).portA = s.portA ∧
    (writeCond c v s).portB = s.portB ∧ (writeCond c v s).rt = s.rt ∧ (writeCond c v s).le = s.le ∧ (writeCond c v s).ru = s.ru ∧
    (writeCond c v s).cq = s.cq ∧ (writeCond c v s).ve = s.ve ∧ (writeCond c v s).smp = s.smp ∧ (writeCond c v s).fb = s.fb ∧
    (writeCond c v s).rl = s.rl ∧ (writeCond c v s).ef = s.ef ∧ (writeCond c v s).ss = s.ss ∧ (writeCond c v s).nt = s.nt :=
  ⟨rfl, rfl, rfl, rfl, rfl, rfl, rfl, rfl, rfl, rfl, rfl, rfl, rfl, rfl, rfl⟩

@[simp] theorem raise_others (k : NoticeKind) (j : Subject) :
    (raise k j s).pending = s.pending ∧ (raise k j s).ready = s.ready ∧ (raise k j s).portA = s.portA ∧
    (raise k j s).portB = s.portB ∧ (raise k j s).rt = s.rt ∧ (raise k j s).le = s.le ∧ (raise k j s).ru = s.ru ∧
    (raise k j s).cq = s.cq ∧ (raise k j s).cf = s.cf ∧ (raise k j s).ve = s.ve ∧ (raise k j s).smp = s.smp ∧
    (raise k j s).fb = s.fb ∧ (raise k j s).rl = s.rl ∧ (raise k j s).ef = s.ef ∧ (raise k j s).ss = s.ss :=
  ⟨rfl, rfl, rfl, rfl, rfl, rfl, rfl, rfl, rfl, rfl, rfl, rfl, rfl, rfl, rfl⟩

@[simp] theorem emit_others (id : Nat) :
    (emit id s).pending = s.pending ∧ (emit id s).ready = s.ready ∧ (emit id s).portA = s.portA ∧ (emit id s).portB = s.portB ∧
    (emit id s).rt = s.rt ∧ (emit id s).le = s.le ∧ (emit id s).ru = s.ru ∧ (emit id s).cq = s.cq ∧ (emit id s).cf = s.cf ∧
    (emit id s).ve = s.ve ∧ (emit id s).smp = s.smp ∧ (emit id s).fb = s.fb ∧ (emit id s).rl = s.rl ∧ (emit id s).ss = s.ss :=
  ⟨rfl, rfl, rfl, rfl, rfl, rfl, rfl, rfl, rfl, rfl, rfl, rfl, rfl, rfl⟩

@[simp] theorem rejoin_others (d : Nat) :
    (rejoin d s).pending = s.pending ∧ (rejoin d s).ready = s.ready ∧ (rejoin d s).portA = s.portA ∧ (rejoin d s).portB = s.portB ∧
    (rejoin d s).rt = s.rt ∧ (rejoin d s).le = s.le ∧ (rejoin d s).ru = s.ru ∧ (rejoin d s).cq = s.cq ∧ (rejoin d s).cf = s.cf ∧
    (rejoin d s).ve = s.ve ∧ (rejoin d s).smp = s.smp ∧ (rejoin d s).fb = s.fb ∧ (rejoin d s).rl = s.rl ∧ (rejoin d s).ss = s.ss ∧
    (rejoin d s).nt = s.nt :=
  ⟨rfl, rfl, rfl, rfl, rfl, rfl, rfl, rfl, rfl, rfl, rfl, rfl, rfl, rfl, rfl⟩

@[simp] theorem beginBoundary_others :
    (beginBoundary s).pending = s.pending ∧ (beginBoundary s).ready = s.ready ∧ (beginBoundary s).portA = s.portA ∧
    (beginBoundary s).portB = s.portB ∧ (beginBoundary s).rt = s.rt ∧ (beginBoundary s).le = s.le ∧ (beginBoundary s).ru = s.ru ∧
    (beginBoundary s).cq = s.cq ∧ (beginBoundary s).cf = s.cf ∧ (beginBoundary s).ve = s.ve ∧ (beginBoundary s).smp = s.smp ∧
    (beginBoundary s).fb = s.fb ∧ (beginBoundary s).rl = s.rl ∧ (beginBoundary s).ss = s.ss ∧ (beginBoundary s).nt = s.nt :=
  ⟨rfl, rfl, rfl, rfl, rfl, rfl, rfl, rfl, rfl, rfl, rfl, rfl, rfl, rfl, rfl⟩

/-- The event fabric's own fields where a cause begins, goes on, or is a boundary's. -/
@[simp] theorem begin_fabric (d : Nat) :
    (begin d s).ef.events = awaited s ∧ (begin d s).ef.causes = s.ef.causes + 1 ∧ (begin d s).ef.cause = s.ef.causes + 1 ∧
    (begin d s).ef.boundary = s.ef.boundary ∧ (begin d s).ef.depth = d ∧ (begin d s).ef.inputs = s.ef.inputs ∧
    (begin d s).ef.outputs = s.ef.outputs ∧ (begin d s).ef.timers = s.ef.timers ∧ (begin d s).ef.watches = s.ef.watches :=
  ⟨rfl, rfl, rfl, rfl, rfl, rfl, rfl, rfl, rfl⟩

@[simp] theorem rejoin_fabric (d : Nat) :
    (rejoin d s).ef.events = s.ef.events ∧ (rejoin d s).ef.causes = s.ef.causes ∧ (rejoin d s).ef.cause = s.ef.boundary ∧
    (rejoin d s).ef.boundary = s.ef.boundary ∧ (rejoin d s).ef.depth = d ∧ (rejoin d s).ef.inputs = s.ef.inputs ∧
    (rejoin d s).ef.outputs = s.ef.outputs ∧ (rejoin d s).ef.timers = s.ef.timers ∧ (rejoin d s).ef.watches = s.ef.watches :=
  ⟨rfl, rfl, rfl, rfl, rfl, rfl, rfl, rfl, rfl⟩

@[simp] theorem beginBoundary_fabric :
    (beginBoundary s).ef.events = awaited s ∧ (beginBoundary s).ef.causes = s.ef.causes + 1 ∧
    (beginBoundary s).ef.cause = s.ef.causes + 1 ∧ (beginBoundary s).ef.boundary = s.ef.causes + 1 ∧ (beginBoundary s).ef.depth = 1 ∧
    (beginBoundary s).ef.inputs = s.ef.inputs ∧ (beginBoundary s).ef.timers = s.ef.timers :=
  ⟨rfl, rfl, rfl, rfl, rfl, rfl, rfl⟩

@[simp] theorem begin_others (d : Nat) :
    (begin d s).pending = s.pending ∧ (begin d s).ready = s.ready ∧ (begin d s).portA = s.portA ∧ (begin d s).portB = s.portB ∧
    (begin d s).rt = s.rt ∧ (begin d s).le = s.le ∧ (begin d s).ru = s.ru ∧ (begin d s).cq = s.cq ∧ (begin d s).cf = s.cf ∧
    (begin d s).ve = s.ve ∧ (begin d s).smp = s.smp ∧ (begin d s).fb = s.fb ∧ (begin d s).rl = s.rl ∧ (begin d s).ss = s.ss ∧
    (begin d s).nt = s.nt :=
  ⟨rfl, rfl, rfl, rfl, rfl, rfl, rfl, rfl, rfl, rfl, rfl, rfl, rfl, rfl, rfl⟩

@[simp] theorem updPort_others (p : Port) (f : PortState → PortState) :
    (updPort p f s).pending = s.pending ∧ (updPort p f s).ready = s.ready ∧ (updPort p f s).rt = s.rt ∧ (updPort p f s).le = s.le ∧
    (updPort p f s).ru = s.ru ∧ (updPort p f s).cq = s.cq ∧ (updPort p f s).cf = s.cf ∧ (updPort p f s).ve = s.ve ∧
    (updPort p f s).smp = s.smp ∧ (updPort p f s).fb = s.fb ∧ (updPort p f s).rl = s.rl ∧ (updPort p f s).ef = s.ef ∧
    (updPort p f s).ss = s.ss ∧ (updPort p f s).nt = s.nt := by
  cases p <;> exact ⟨rfl, rfl, rfl, rfl, rfl, rfl, rfl, rfl, rfl, rfl, rfl, rfl, rfl, rfl⟩

@[simp] theorem updPort_a (f : PortState → PortState) : (updPort .a f s).portA = f s.portA ∧ (updPort .a f s).portB = s.portB := ⟨rfl, rfl⟩

@[simp] theorem updPort_b (f : PortState → PortState) : (updPort .b f s).portA = s.portA ∧ (updPort .b f s).portB = f s.portB := ⟨rfl, rfl⟩

/-- A port after an update of a port. -/
theorem portOf_updPort (p q : Port) (f : PortState → PortState) : portOf (updPort p f s) q = if q = p then f (portOf s p) else portOf s q := by
  cases p <;> cases q <;> rfl

/-! ## Records after an update -/

theorem routeAt_updRoute (h : Nat) (f : Route → Route) (k : Nat) :
    routeAt (updRoute h f s) k = (routeAt s k).map (fun r => if k = h then f r else r) :=
  Table.find_mapAll (fun k r => if k = h then f r else r) s.rt.routes k

@[simp] theorem genOf_updRoute (h : Nat) (f : Route → Route) (k : Nat) : genOf (updRoute h f s) k = genOf s k := rfl

theorem callOf_updCall (c : Nat) (f : Call → Call) (k : Nat) :
    callOf (updCall c f s) k = (callOf s k).map (fun x => if k = c then f x else x) :=
  Table.find_mapAll (fun k x => if k = c then f x else x) s.rl.calls k

theorem voiceOf_updVoice (n : Nat) (f : Voice → Voice) (k : Nat) : voiceOf (updVoice n f s) k = if k = n then f (voiceOf s n) else voiceOf s k :=
  Table.read_write _ _ _ _ _

theorem listOf_updList (l : Nat) (f : CueList → CueList) (k : Nat) : listOf (updList l f s) k = if k = l then f (listOf s l) else listOf s k :=
  Table.read_write _ _ _ _ _

theorem setOf_updSet (n : Nat) (f : StatusSet → StatusSet) (k : Nat) : setOf (updSet n f s) k = if k = n then f (setOf s n) else setOf s k :=
  Table.read_write _ _ _ _ _

theorem mixOf_updMix (m : Nat) (f : Mix → Mix) (k : Nat) : mixOf (updMix m f s) k = if k = m then f (mixOf s m) else mixOf s k :=
  Table.read_write _ _ _ _ _

theorem panelOf_updPanel (a : Nat) (f : Panel → Panel) (k : Nat) : panelOf (updPanel a f s) k = if k = a then f (panelOf s a) else panelOf s k :=
  Table.read_write _ _ _ _ _

theorem zoneOf_updZone (z : Nat) (f : Zone → Zone) (k : Nat) : zoneOf (updZone z f s) k = if k = z then f (zoneOf s z) else zoneOf s k :=
  Table.read_write _ _ _ _ _

theorem callPresetOf_updCallPreset (p : Nat) (f : CallPreset → CallPreset) (k : Nat) : callPresetOf (updCallPreset p f s) k = if k = p then f (callPresetOf s p) else callPresetOf s k :=
  Table.read_write _ _ _ _ _

theorem inputOf_updInput (i : Nat) (f : ContactIn → ContactIn) (k : Nat) : inputOf (updInput i f s) k = if k = i then f (inputOf s i) else inputOf s k :=
  Table.read_write _ _ _ _ _

theorem outputOf_updOutput (l : Nat) (f : ContactOut → ContactOut) (k : Nat) : outputOf (updOutput l f s) k = if k = l then f (outputOf s l) else outputOf s k :=
  Table.read_write _ _ _ _ _

theorem watchOf_updWatch (w : Nat) (f : Watch → Watch) (k : Nat) : watchOf (updWatch w f s) k = if k = w then f (watchOf s w) else watchOf s k :=
  Table.read_write _ _ _ _ _

theorem timerOf_setTimer (t n k : Nat) : timerOf (setTimer t n s) k = if k = t then n else timerOf s k := Table.read_write _ _ _ _ _

/-- R107 of every condition: a write to C0, or to a number above 31, is ignored. -/
theorem condOf_writeCond (c : Nat) (v : Bool) (k : Nat) :
    condOf (writeCond c v s) k = if k = c ∧ c ≠ 0 ∧ c ≤ 31 then v else condOf s k := by
  unfold condOf writeCond
  by_cases hk : k = 0
  · subst hk
    have : ¬ (0 = c ∧ c ≠ 0 ∧ c ≤ 31) := by omega
    simp only [if_true, if_neg this]
  · simp only [hk, if_false]
    by_cases hc : c = 0 ∨ 31 < c
    · have : ¬ (k = c ∧ c ≠ 0 ∧ c ≤ 31) := by omega
      simp [hc, this]
    · simp only [hc, if_false, Table.read_write]
      by_cases h : k = c
      · have : c ≠ 0 ∧ c ≤ 31 := by omega
        simp [h, this]
      · simp [h]

/-- R192 of every kind. -/
theorem noticeOf_raise (k j : NoticeKind) (x : Subject) :
    noticeOf (raise k x s) j = if noticeIndex j = noticeIndex k then raisedNotice x (noticeOf s k) else noticeOf s j :=
  Table.read_write Notice.init s.nt.kinds (noticeIndex k) (raisedNotice x (noticeOf s k)) (noticeIndex j)

/-- R164: an event handed over. -/
theorem emit_events (id : Nat) :
    (emit id s).ef.events = if s.ef.depth < 5 then s.ef.events ++ [⟨id, s.ef.depth, s.ef.cause, []⟩] else s.ef.events := rfl

/-- What is done for each number of a list keeps what each does keep. -/
theorem forEach_keeps {P : State → Prop} (f : Nat → State → State) (h : ∀ n t, P t → P (f n t)) :
    ∀ (l : List Nat) (t : State), P t → P (forEach l f t)
  | [], _, ht => ht
  | n :: l, t, ht => forEach_keeps f h l (f n t) (h n t ht)

@[simp] theorem forEach_nil (f : Nat → State → State) : forEach [] f s = s := rfl

@[simp] theorem forEach_cons (n : Nat) (l : List Nat) (f : Nat → State → State) : forEach (n :: l) f s = forEach l f (f n s) := rfl

end Sys2Proof.Machine
end

