-- ==== Sys2Proof/Laws/Kept.lean ====
section
/-! SUPPORT. What the operations inside a command leave alone, said once for each: `Kept` (the settings, the writes in flight, the order of
every collection), `ListsKept` (also the cue store and, of every list, its standby, take counter, guard, permission and age of the last GO)
and `Internal` (also which call slots are in use, with which call, and the presets). Later proofs cite these and unfold no operation. -/

namespace Sys2Proof

variable {α : Type}

theorem Table.rising_mapAll (f : Nat → α → α) (t : Table α) (h : Table.rising t = true) : Table.rising (Table.mapAll f t) = true := by
  rw [Table.rising_iff] at *
  simpa [Table.mapAll, Function.comp_def] using h

theorem Table.rising_write [DecidableEq α] (d : α) (t : Table α) (k : Nat) (v : α) (h : Table.rising t = true) :
    Table.rising (Table.write d t k v) = true := by
  unfold Table.write
  split
  · exact Table.rising_remove t k h
  · exact Table.rising_store t k v h

theorem Table.rising_mapWrite [DecidableEq α] (d : α) (f : Nat → α → α) (t : Table α) (h : Table.rising t = true) :
    Table.rising (Table.mapWrite d f t) = true :=
  Table.rising_filter _ _ (Table.rising_mapAll f t h)

end Sys2Proof

namespace Sys2Proof.Machine

/-- What every command but cold reset and the port transactions leaves alone, a request's reply apart. -/
structure Inner (s t : State) : Prop where
  pending : t.pending = s.pending
  ready : t.ready = s.ready
  portA : t.portA = s.portA
  portB : t.portB = s.portB
  memory : t.smp.memory = s.smp.memory
  writes : writesInFlight t.smp = writesInFlight s.smp
  ordered : RecordsOrdered s → RecordsOrdered t

/-- What a completion, a delivery, a GO or a scan leaves alone. -/
structure Kept (s t : State) : Prop where
  settings : settings t = settings s
  writes : writesInFlight t.smp = writesInFlight s.smp
  ordered : RecordsOrdered s → RecordsOrdered t

/-- What a cue action leaves alone. -/
structure ListsKept (s t : State) : Prop extends Kept s t where
  cues : t.cq.cues = s.cq.cues
  lists : ∀ l, fixedOf (listOf t l) = fixedOf (listOf s l)

/-- What a scan, a settlement or the freeing of a voice leaves alone. -/
structure Internal (s t : State) : Prop extends ListsKept s t where
  calls : ∀ k, (callOf t k).map callFixed = (callOf s k).map callFixed
  seq : t.rl.seq = s.rl.seq
  presets : t.rl.presets = s.rl.presets

theorem Inner.refl (s : State) : Inner s s := ⟨rfl, rfl, rfl, rfl, rfl, rfl, id⟩
theorem Inner.trans {s t u : State} (h : Inner s t) (k : Inner t u) : Inner s u :=
  ⟨k.pending.trans h.pending, k.ready.trans h.ready, k.portA.trans h.portA, k.portB.trans h.portB, k.memory.trans h.memory,
    k.writes.trans h.writes, fun x => k.ordered (h.ordered x)⟩

theorem Kept.refl (s : State) : Kept s s := ⟨rfl, rfl, id⟩
theorem Kept.trans {s t u : State} (h : Kept s t) (k : Kept t u) : Kept s u :=
  ⟨k.settings.trans h.settings, k.writes.trans h.writes, fun x => k.ordered (h.ordered x)⟩

theorem Kept.inner {s t : State} (h : Kept s t) : Inner s t :=
  ⟨by simpa [Machine.settings] using congrArg State.pending h.settings, by simpa [Machine.settings] using congrArg State.ready h.settings,
    by simpa [Machine.settings] using congrArg State.portA h.settings, by simpa [Machine.settings] using congrArg State.portB h.settings,
    by simpa [Machine.settings] using congrArg (fun x => x.smp.memory) h.settings, h.writes, h.ordered⟩

theorem ListsKept.refl (s : State) : ListsKept s s := ⟨Kept.refl s, rfl, fun _ => rfl⟩
theorem ListsKept.trans {s t u : State} (h : ListsKept s t) (k : ListsKept t u) : ListsKept s u :=
  ⟨h.toKept.trans k.toKept, k.cues.trans h.cues, fun l => (k.lists l).trans (h.lists l)⟩

theorem Internal.refl (s : State) : Internal s s := ⟨ListsKept.refl s, fun _ => rfl, rfl, rfl⟩
theorem Internal.trans {s t u : State} (h : Internal s t) (k : Internal t u) : Internal s u :=
  ⟨h.toListsKept.trans k.toListsKept, fun c => (k.calls c).trans (h.calls c), k.seq.trans h.seq, k.presets.trans h.presets⟩

theorem Internal.forEach {f : Nat → State → State} (h : ∀ n t, Internal t (f n t)) (l : List Nat) (s : State) : Internal s (forEach l f s) :=
  forEach_keeps f (P := fun t => Internal s t) (fun n _ k => k.trans (h n _)) l s (Internal.refl s)

theorem ListsKept.forEach {f : Nat → State → State} (h : ∀ n t, ListsKept t (f n t)) (l : List Nat) (s : State) :
    ListsKept s (forEach l f s) :=
  forEach_keeps f (P := fun t => ListsKept s t) (fun n _ k => k.trans (h n _)) l s (ListsKept.refl s)

theorem Kept.forEach {f : Nat → State → State} (h : ∀ n t, Kept t (f n t)) (l : List Nat) (s : State) : Kept s (forEach l f s) :=
  forEach_keeps f (P := fun t => Kept s t) (fun n _ k => k.trans (h n _)) l s (Kept.refl s)

/-- A fold that keeps a relation step by step. -/
theorem Internal.foldl {α β : Type} (p : α → State) (g : α → β → α) (h : ∀ a b, Internal (p a) (p (g a b))) :
    ∀ (l : List β) (a : α), Internal (p a) (p (l.foldl g a))
  | [], _ => Internal.refl _
  | b :: l, a => (h a b).trans (Internal.foldl p g h l (g a b))

theorem ListsKept.foldl {α β : Type} (p : α → State) (g : α → β → α) (h : ∀ a b, ListsKept (p a) (p (g a b))) :
    ∀ (l : List β) (a : α), ListsKept (p a) (p (l.foldl g a))
  | [], _ => ListsKept.refl _
  | b :: l, a => (h a b).trans (ListsKept.foldl p g h l (g a b))

/-! ## Updates of one record -/

theorem updRoute_internal (h : Nat) (f : Route → Route) (s : State) : Internal s (updRoute h f s) :=
  ⟨⟨⟨rfl, rfl, fun k => { k with rt := { k.rt with routes := Table.rising_mapAll (fun k r => if k = h then f r else r) _ k.rt.routes } }⟩, rfl, fun _ => rfl⟩,
    fun _ => rfl, rfl, rfl⟩

theorem updVoice_internal (n : Nat) (f : Voice → Voice) (s : State) : Internal s (updVoice n f s) :=
  ⟨⟨⟨rfl, rfl, fun k => { k with ve := { k.ve with voices := Table.rising_write _ _ _ _ k.ve.voices } }⟩, rfl, fun _ => rfl⟩, fun _ => rfl, rfl, rfl⟩

theorem updList_internal {l : Nat} {f : CueList → CueList} (hf : ∀ q, fixedOf (f q) = fixedOf q) (s : State) : Internal s (updList l f s) :=
  ⟨⟨⟨rfl, rfl, fun k => { k with cq := { k.cq with lists := Table.rising_write _ _ _ _ k.cq.lists } }⟩, rfl, fun m => by
    rw [listOf_updList]; split
    · next h => subst h; exact hf _
    · rfl⟩, fun _ => rfl, rfl, rfl⟩

/-- Any update of a list keeps what `Kept` says. -/
theorem updList_kept (l : Nat) (f : CueList → CueList) (s : State) : Kept s (updList l f s) :=
  ⟨rfl, rfl, fun k => { k with cq := { k.cq with lists := Table.rising_write _ _ _ _ k.cq.lists } }⟩

theorem updSet_internal (n : Nat) (f : StatusSet → StatusSet) (s : State) : Internal s (updSet n f s) :=
  ⟨⟨⟨rfl, rfl, fun k => { k with le := { k.le with sets := Table.rising_write _ _ _ _ k.le.sets } }⟩, rfl, fun _ => rfl⟩, fun _ => rfl, rfl, rfl⟩

theorem updZone_internal (z : Nat) (f : Zone → Zone) (s : State) : Internal s (updZone z f s) :=
  ⟨⟨⟨rfl, rfl, fun k => { k with rl := { k.rl with zones := Table.rising_write _ _ _ _ k.rl.zones } }⟩, rfl, fun _ => rfl⟩, fun _ => rfl, rfl, rfl⟩

theorem updCall_internal {c : Nat} {f : Call → Call} (hf : ∀ x, callFixed (f x) = callFixed x) (s : State) : Internal s (updCall c f s) :=
  ⟨⟨⟨rfl, rfl, fun k => { k with rl := { k.rl with calls := Table.rising_mapAll (fun n x => if n = c then f x else x) _ k.rl.calls } }⟩,
    rfl, fun _ => rfl⟩, fun k => by
    rw [callOf_updCall, Option.map_map]
    congr 1
    funext x
    simp only [Function.comp]
    split
    · exact hf x
    · rfl, rfl, rfl⟩

theorem updCallPreset_listsKept (p : Nat) (f : CallPreset → CallPreset) (s : State) : ListsKept s (updCallPreset p f s) :=
  ⟨⟨rfl, rfl, fun k => { k with rl := { k.rl with presets := Table.rising_write _ _ _ _ k.rl.presets } }⟩, rfl, fun _ => rfl⟩

theorem updOutput_internal (l : Nat) (f : ContactOut → ContactOut) (s : State) : Internal s (updOutput l f s) :=
  ⟨⟨⟨rfl, rfl, fun k => { k with ef := { k.ef with outputs := Table.rising_write _ _ _ _ k.ef.outputs } }⟩, rfl, fun _ => rfl⟩, fun _ => rfl, rfl, rfl⟩

theorem raiseIn_kinds (k : NoticeKind) (x : Subject) {nt : NoticeTable} (h : nt.kinds.rising = true) :
    (raiseIn k x nt).kinds.rising = true := by
  simp only [raiseIn]; exact Table.rising_write _ _ _ _ h

/-- A notice raised keeps the table rising. -/
theorem raiseIn_ordered (k : NoticeKind) (x : Subject) {nt : NoticeTable} (h : nt.Ordered) : (raiseIn k x nt).Ordered :=
  { h with kinds := raiseIn_kinds k x h.kinds }

theorem raise_internal (k : NoticeKind) (x : Subject) (s : State) : Internal s (raise k x s) :=
  ⟨⟨⟨rfl, rfl, fun h => { h with nt := raiseIn_ordered k x h.nt }⟩, rfl, fun _ => rfl⟩, fun _ => rfl, rfl, rfl⟩

theorem emit_internal (id : Nat) (s : State) : Internal s (emit id s) := by
  refine ⟨⟨⟨?_, rfl, fun h => { h with ef := { h.ef with }, nt := ?_ }⟩, rfl, fun _ => rfl⟩, fun _ => rfl, rfl, rfl⟩
  · unfold emit settings raiseIn
    simp only
    split <;> rfl
  · unfold emit
    dsimp only
    split
    · exact h.nt
    · exact raiseIn_ordered _ _ h.nt

theorem begin_internal (d : Nat) (s : State) : Internal s (begin d s) :=
  ⟨⟨⟨rfl, rfl, fun k => { k with ef := { k.ef with } }⟩, rfl, fun _ => rfl⟩, fun _ => rfl, rfl, rfl⟩

theorem rejoin_internal (d : Nat) (s : State) : Internal s (rejoin d s) :=
  ⟨⟨⟨rfl, rfl, fun k => { k with ef := { k.ef with } }⟩, rfl, fun _ => rfl⟩, fun _ => rfl, rfl, rfl⟩

theorem beginBoundary_internal (s : State) : Internal s (beginBoundary s) :=
  ⟨⟨⟨rfl, rfl, fun k => { k with ef := { k.ef with } }⟩, rfl, fun _ => rfl⟩, fun _ => rfl, rfl, rfl⟩

theorem writeCond_internal (c : Nat) (v : Bool) (s : State) : Internal s (writeCond c v s) := by
  refine ⟨⟨⟨rfl, rfl, fun k => { k with cf := { k.cf with values := ?_ } }⟩, rfl, fun _ => rfl⟩, fun _ => rfl, rfl, rfl⟩
  unfold writeCond
  dsimp only
  split
  · exact k.cf.values
  · exact Table.rising_write _ _ _ _ k.cf.values

/-- Any update of the routes and generations that keeps the routes rising. -/
theorem routes_internal (s : State) (r : RouteTable) (h : s.rt.Ordered → r.Ordered) :
    Internal s { s with rt := r } :=
  ⟨⟨⟨rfl, rfl, fun k => { k with rt := h k.rt }⟩, rfl, fun _ => rfl⟩, fun _ => rfl, rfl, rfl⟩

/-- Any update of the batches that keeps them rising. -/
theorem batches_internal (s : State) (x : Table Batch) (h : s.ru.batches.rising = true → x.rising = true) :
    Internal s { s with ru := { s.ru with batches := x } } :=
  ⟨⟨⟨rfl, rfl, fun k => { k with ru := h k.ru }⟩, rfl, fun _ => rfl⟩, fun _ => rfl, rfl, rfl⟩

/-- Any change of the wait list. -/
theorem waits_internal (s : State) (w : List Waiting) : Internal s { s with ve := { s.ve with waits := w } } :=
  ⟨⟨⟨rfl, rfl, fun k => { k with ve := { k.ve with } }⟩, rfl, fun _ => rfl⟩, fun _ => rfl, rfl, rfl⟩

/-- Any change of the arbiter that keeps the writes in flight and its tables rising. -/
theorem arbiter_internal (s : State) (r : Table Nat) (w : Option PendingWrite) (x : Option Transfer) (p : Table Nat)
    (h : writesInFlight { s.smp with requests := r, write := w, transfer := x, pointers := p } = writesInFlight s.smp)
    (hr : s.smp.requests.rising = true → r.rising = true := by exact fun k => k)
    (hp : s.smp.pointers.rising = true → p.rising = true := by exact fun k => k) :
    Internal s { s with smp := { s.smp with requests := r, write := w, transfer := x, pointers := p } } :=
  ⟨⟨⟨rfl, h, fun k => { k with smp := ⟨hr k.smp.requests, hp k.smp.pointers⟩ }⟩, rfl, fun _ => rfl⟩, fun _ => rfl, rfl, rfl⟩

theorem driveFn_internal (a b : BitVec 16) (s : State) : Internal s (driveFn a b s) :=
  Internal.forEach (fun l t => by split <;> first | exact updOutput_internal _ _ _ | exact Internal.refl _) _ _

theorem refreshLamps_internal (s : State) : Internal s (refreshLamps s) :=
  Internal.forEach (fun l t => by split <;> first | exact updOutput_internal _ _ _ | exact Internal.refl _) _ _

/-! ## Running records -/

theorem updRunning_internal (l take : Nat) (f : Running → Running) (s : State) : Internal s (updRunning l take f s) := by
  unfold updRunning
  exact updList_internal (by exact fun _ => rfl) s

theorem completeRunning_internal (l take : Nat) (s : State) : Internal s (completeRunning l take s) := by
  unfold completeRunning
  refine Internal.trans ?_ (updList_internal (by exact fun _ => rfl) _)
  refine Internal.trans ?_ (emit_internal _ _)
  exact updList_internal (by exact fun _ => rfl) s

theorem completionTest_internal (l take : Nat) (s : State) : Internal s (completionTest l take s) := by
  unfold completionTest
  split
  · split
    · exact completeRunning_internal _ _ _
    · exact Internal.refl _
  · exact Internal.refl _

theorem settle_internal (b : Option StartedBy) (s : State) : Internal s (settle b s) := by
  cases b with
  | none => exact Internal.refl s
  | some b => exact (updRunning_internal _ _ _ s).trans (completionTest_internal _ _ _)

theorem countFade_internal (b : StartedBy) (s : State) : Internal s (countFade b s) := updRunning_internal _ _ _ s
theorem countLate_internal (b : StartedBy) (s : State) : Internal s (countLate b s) := updRunning_internal _ _ _ s
theorem settleLate_internal (l take : Nat) (s : State) : Internal s (settleLate l take s) :=
  (updRunning_internal _ _ _ s).trans (completionTest_internal _ _ _)

theorem reassess_internal (l : Nat) (s : State) : Internal s (reassess l s) := by
  unfold reassess
  split
  · exact Internal.refl _
  · split
    · refine Internal.trans ?_ (emit_internal _ _)
      exact updList_internal (by exact fun _ => rfl) s
    · exact Internal.refl _

/-! ## Flags -/

theorem clearFlags_internal (n : Nat) (m : Flags) (s : State) : Internal s (clearFlags n m s) := updSet_internal _ _ s

theorem meetFlags_internal (n : Nat) (m : Flags) (s : State) : Internal s (meetFlags n m s) := by
  unfold meetFlags
  simp only
  split
  · exact (updSet_internal _ _ s).trans (raise_internal _ _ _)
  · exact updSet_internal _ _ s

/-! ## Routes and batches -/

theorem createRoute_internal (r : NewRoute) (s : State) : Internal s (createRoute r s).1 := by
  unfold createRoute
  split
  · exact routes_internal s _ (fun h => { h with routes := Table.rising_store _ _ _ h.routes })
  · exact Internal.refl _

theorem leaveBatch_internal (b h : Nat) (s : State) : Internal s (leaveBatch b h s) := by
  unfold leaveBatch
  split
  · exact Internal.refl _
  · simp only
    split
    · refine Internal.trans ?_ (settle_internal _ _)
      exact batches_internal s _ (fun k => by split <;> first | exact Table.rising_remove _ _ k | exact Table.rising_store _ _ _ k)
    · exact batches_internal s _ (fun k => by split <;> first | exact Table.rising_remove _ _ k | exact Table.rising_store _ _ _ k)

theorem leaveAnyBatch_internal (h : Nat) (s : State) : Internal s (leaveAnyBatch h s) := by
  unfold leaveAnyBatch
  split
  · split
    · exact leaveBatch_internal _ _ _
    · exact Internal.refl _
  · exact Internal.refl _

theorem dropFade_internal (h : Nat) (s : State) : Internal s (dropFade h s) := by
  unfold dropFade
  split
  · split
    · exact (updRoute_internal _ _ s).trans (settle_internal _ _)
    · exact Internal.refl _
  · exact Internal.refl _

theorem releaseRoute_internal (h : Nat) (s : State) : Internal s (releaseRoute h s) := by
  unfold releaseRoute
  split
  · exact Internal.refl _
  · exact ((dropFade_internal h s).trans (leaveAnyBatch_internal h _)).trans (routes_internal _ _ (fun k =>
      ⟨Table.rising_remove _ _ k.routes, Table.rising_write _ _ _ _ k.gens⟩))

theorem releaseWhere_internal (p : Route → Bool) (s : State) : Internal s (releaseWhere p s) :=
  Internal.forEach (fun n t => releaseRoute_internal n t) _ s

theorem setBase_internal (h : Nat) (v : Level) (f : Option (Nat × Curve)) (o : Origin) (b : Option StartedBy) (s : State) :
    Internal s (setBase h v f o b s) := by
  unfold setBase
  split
  · exact Internal.refl _
  · simp only
    split <;> exact (dropFade_internal h s).trans (updRoute_internal _ _ _)

theorem reclaim_internal (h : Nat) (s : State) : Internal s (reclaim h s) := by
  unfold reclaim
  split
  · exact Internal.refl _
  · split
    · exact (((updRoute_internal _ _ s).trans (dropFade_internal h _)).trans (leaveAnyBatch_internal h _)).trans (updRoute_internal _ _ _)
    · exact Internal.refl _

theorem giveSetProt_internal (h : Nat) (x : Option Nat) (p : Option Bool) (s : State) : Internal s (giveSetProt h x p s) :=
  updRoute_internal _ _ s

theorem adopt_internal (h : Nat) (o : Owner) (s : State) : Internal s (adopt h o s) := by
  unfold adopt
  split
  · exact Internal.refl _
  · exact (updRoute_internal _ _ s).trans (settle_internal _ _)

theorem enterBatch_internal (h b : Nat) (s : State) : Internal s (enterBatch h b s) := by
  unfold enterBatch
  split
  · exact Internal.refl _
  · exact (dropFade_internal h s).trans (updRoute_internal _ _ _)

theorem retireRoute_internal (h : Nat) (q : Retirement) (s : State) : Internal s (retireRoute h q s).1 := by
  unfold retireRoute
  split
  · exact (enterBatch_internal _ _ s).trans (batches_internal _ _ (fun k => Table.rising_mapAll _ _ k))
  · split
    · exact (enterBatch_internal _ _ s).trans (batches_internal _ _ (fun k => Table.rising_store _ _ _ k))
    · split
      · exact Internal.refl _
      · exact ((setBase_internal _ _ _ _ _ s).trans (updRoute_internal _ _ _)).trans (raise_internal _ _ _)

/-! ## Voices and the arbiter -/

theorem grantVoice_internal (n c : Nat) (s : State) (h : s.smp.transfer = none) : Internal s (grantVoice n c s) := by
  refine arbiter_internal s _ _ _ _ ?_ (Table.rising_remove _ _) (Table.rising_write _ _ _ _)
  simp [writesInFlight, h]

theorem grant_internal (s : State) : Internal s (grant s) := by
  unfold grant
  split
  · exact Internal.refl _
  · next h =>
    split
    · exact grantVoice_internal _ _ _ h
    · exact grantVoice_internal _ _ _ h
    · exact grantVoice_internal _ _ _ h
    · next w _ _ _ hw =>
      refine arbiter_internal s _ _ _ _ ?_
      simp [writesInFlight, h, hw]
    · exact Internal.refl _

theorem makeRequest_internal (n : Nat) (s : State) : Internal s (makeRequest n s) := by
  unfold makeRequest
  split
  · exact Internal.refl _
  · split
    · refine Internal.trans ?_ (grant_internal _)
      exact arbiter_internal s _ _ _ _ rfl (Table.rising_store _ _ _)
    · exact Internal.refl _

theorem dropRequest_internal (n : Nat) (s : State) : Internal s (dropRequest n s) := by
  refine arbiter_internal s _ _ _ _ ?_ (Table.rising_remove _ _)
  unfold writesInFlight
  cases s.smp.transfer with
  | none => rfl
  | some t => cases t <;> rfl

theorem claimVoice_internal (q : Claim) (s : State) : Internal s (claimVoice q s).1 := by
  unfold claimVoice
  split
  · exact Internal.refl _
  · split
    · exact Internal.refl _
    · exact (updVoice_internal _ _ s).trans (makeRequest_internal _ _)

theorem offerTo_internal : ∀ (ws : List Waiting) (s : State), Internal s (offerTo ws s).1
  | [], s => waits_internal s []
  | w :: ws, s => by
    have h1 := waits_internal s ws
    unfold offerTo
    simp only
    split
    · exact (h1.trans (reassess_internal _ _)).trans (offerTo_internal ws _)
    · next c p _ =>
      have h2 := h1.trans (claimVoice_internal (playClaim (.standby w.list w.number w.label) c p) _)
      split
      · next heq => rw [heq] at h2; exact h2.trans (reassess_internal _ _)
      · next heq => rw [heq] at h2; exact (h2.trans (reassess_internal _ _)).trans (offerTo_internal ws _)

theorem settleVoice_internal (n : Nat) (s : State) : Internal s (settleVoice n s) := by
  unfold settleVoice
  simp only
  have h := (((releaseWhere_internal (fun r => r.src == 64 + n) s).trans (updVoice_internal n (fun x => { x with fade := none, fadeInBy := none }) _)).trans
    (settle_internal ((voiceOf s n).fade.bind (·.startedBy)) _)).trans (settle_internal (voiceOf s n).fadeInBy _)
  split
  · refine h.trans (Internal.trans ?_ (completionTest_internal _ _ _))
    refine Internal.trans ?_ (updRunning_internal _ _ _ _)
    split
    · exact settleLate_internal _ _ _
    · exact Internal.refl _
  · exact h

theorem clearVoice_internal (n : Nat) (s : State) : Internal s (clearVoice n s) :=
  (updVoice_internal _ _ s).trans (dropRequest_internal _ _)

theorem freeToWaits_internal (n : Nat) (s : State) : Internal s (freeToWaits n s).1 :=
  ((settleVoice_internal n s).trans (clearVoice_internal n _)).trans (offerTo_internal _ _)

theorem completePreload_internal (n : Nat) (s : State) : Internal s (completePreload n s) := by
  unfold completePreload
  simp only
  split
  · split
    · exact (updVoice_internal _ _ s).trans (reassess_internal _ _)
    · exact updVoice_internal _ _ s
  · exact Internal.refl _

/-- A cap set on the transfer in progress is a change of the arbiter alone. -/
theorem capTransfer_internal (n x : Nat) (s : State) :
    Internal s { s with smp := { s.smp with transfer := match s.smp.transfer with
      | some (.fetch w a k cap stale) => if w = n ∧ stale = false then some (.fetch w a k (some x) stale) else some (.fetch w a k cap stale)
      | t => t } } := by
  refine arbiter_internal s _ _ _ _ ?_
  unfold writesInFlight
  cases s.smp.transfer with
  | none => rfl
  | some t =>
    cases t with
    | fetch w a k cap stale => by_cases h : w = n ∧ stale = false <;> simp [h]
    | write _ => rfl

theorem setExit_internal (n : Nat) (s : State) : Internal s (setExit n s) := by
  unfold setExit
  simp only
  split
  · exact Internal.refl _
  · split
    · refine Internal.trans ?_ (makeRequest_internal _ _)
      have h (t : State) : Internal t (if (wantedClass t n).isNone = true then
          { t with smp := { t.smp with requests := t.smp.requests.remove n } } else t) := by
        split
        · exact arbiter_internal _ _ _ _ _ rfl (Table.rising_remove _ _)
        · exact Internal.refl _
      refine Internal.trans ?_ (h _)
      refine Internal.trans ?_ (completePreload_internal n _)
      refine Internal.trans ?_ (capTransfer_internal n _ _)
      exact updVoice_internal _ _ s
    · exact Internal.refl _

/-! ## The relay controller -/

theorem duckTo_internal (z : Nat) (g : Int) (d : Nat) (s : State) : Internal s (duckTo z g d s) := by
  unfold duckTo
  split
  · exact Internal.refl _
  · exact updRoute_internal _ _ _

theorem releaseCallRoutes_internal (c : Call) (s : State) : Internal s (releaseCallRoutes c s) :=
  Internal.forEach (fun z t => by split <;> first | exact releaseRoute_internal _ _ | exact Internal.refl _) _ _

theorem freeZones_internal (zs : List Nat) (s : State) : Internal s (freeZones zs s) :=
  Internal.forEach (fun _ t => (updZone_internal _ _ t).trans (duckTo_internal _ _ _ _)) _ _

theorem emitFreed_internal (zs : List Nat) (s : State) : Internal s (emitFreed zs s) := Internal.forEach (fun _ t => emit_internal _ t) _ _

theorem emitStarts_internal (zs : List Nat) (s : State) : Internal s (emitStarts zs s) := Internal.forEach (fun _ t => emit_internal _ t) _ _

theorem createRoute_eq {r : NewRoute} {s t : State} {n : Nat} (h : createRoute r s = (t, n)) : Internal s t := by
  have := createRoute_internal r s
  rwa [h] at this

theorem claimVoice_eq {q : Claim} {s t : State} {c : Claimed} (h : claimVoice q s = (t, c)) : Internal s t := by
  have := claimVoice_internal q s
  rwa [h] at this

theorem retireRoute_eq {n : Nat} {q : Retirement} {s t : State} {b : Option Nat} (h : retireRoute n q s = (t, b)) : Internal s t := by
  have := retireRoute_internal n q s
  rwa [h] at this

theorem preemptCall_internal (slot : Nat) (s : State) : Internal s (preemptCall slot s).1 := by
  unfold preemptCall
  split
  · exact Internal.refl _
  · next c _ =>
    refine Internal.trans (releaseCallRoutes_internal c s) ?_
    refine Internal.trans (updCall_internal (c := slot) (f := fun x => { x with routes := [] }) (by exact fun _ => rfl) _) ?_
    simp only
    refine Internal.trans ?_ (raise_internal _ _ _)
    refine Internal.trans ?_ (updCall_internal (by exact fun _ => rfl) _)
    cases c.voice with
    | none => exact Internal.refl _
    | some v => exact freeToWaits_internal v _

theorem preemptAll_internal (slots : List Nat) (s : State) : Internal s (preemptAll slots s).1 := by
  unfold preemptAll
  refine Internal.foldl (p := fun a : State × Bool => a.1) _ (fun a b => ?_) slots (s, false)
  exact preemptCall_internal b a.1

theorem callRoute_internal (slot src z : Nat) (s : State) : Internal s (callRoute slot src z s) := by
  unfold callRoute
  split
  · exact raise_internal _ _ _
  · simp only
    refine Internal.trans ?_ (updCall_internal (by exact fun _ => rfl) _)
    exact createRoute_internal _ s

theorem claimCall_internal (k : CallKind) (slot : Nat) (s : State) :
    Internal s (match k with
      | .live _ => s
      | .recorded clip => (match claimVoice (callClaim slot clip) s with
        | (s, .got v) => updCall slot (fun x => { x with voice := some v }) s
        | (s, _) => s)) := by
  cases k with
  | live _ => exact Internal.refl _
  | recorded clip =>
    simp only
    split
    · next heq =>
      refine Internal.trans (claimVoice_eq heq) ?_
      exact updCall_internal (by exact fun _ => rfl) _
    · next heq => exact claimVoice_eq heq

theorem activate_internal (slot : Nat) (s : State) : Internal s (activate slot s).1 := by
  unfold activate
  split
  · exact Internal.refl _
  · simp only
    refine Internal.trans ?_ (emitStarts_internal _ _)
    refine Internal.trans ?_ (emitFreed_internal _ _)
    refine Internal.trans ?_ (refreshLamps_internal _)
    refine Internal.trans ?_ (Internal.forEach (fun _ t => duckTo_internal _ _ _ t) _ _)
    refine Internal.trans ?_ (Internal.forEach (fun z t => callRoute_internal _ _ z t) _ _)
    refine Internal.trans ?_ (Internal.forEach (fun z t => updZone_internal z _ t) _ _)
    refine Internal.trans ?_ (updCall_internal (by exact fun _ => rfl) _)
    refine Internal.trans ?_ (claimCall_internal _ _ _)
    refine Internal.trans ?_ (freeZones_internal _ _)
    exact preemptAll_internal _ s

theorem visit_internal (acc : State × Bool) (slot : Nat) : Internal acc.1 (visit acc slot).1 := by
  unfold visit
  split
  · exact Internal.refl _
  · split
    · exact activate_internal _ _
    · exact Internal.refl _

theorem scanOnce_internal (s : State) : Internal s (scanOnce s).1 :=
  Internal.foldl (p := fun a : State × Bool => a.1) visit visit_internal _ (s, false)

theorem scanRounds_internal : ∀ (n : Nat) (s : State), Internal s (scanRounds n s)
  | 0, s => Internal.refl s
  | n + 1, s => by
    have h := scanOnce_internal s
    unfold scanRounds
    split
    · next heq => rw [heq] at h; exact h.trans (scanRounds_internal n _)
    · next heq => rw [heq] at h; exact h

theorem scan_internal (s : State) : Internal s (scan s) := scanRounds_internal _ s

theorem releaseVoice_internal (n : Nat) (s : State) : Internal s (releaseVoice n s) := by
  have h := freeToWaits_internal n s
  unfold releaseVoice
  split
  · next heq => rw [heq] at h; exact h.trans (scan_internal _)
  · next heq => rw [heq] at h; exact h

/-- Any change of the relay controller's records that keeps its tables rising. -/
theorem relay_listsKept (s : State) (r : Relay) (h : s.rl.Ordered → r.Ordered) : ListsKept s { s with rl := r } :=
  ⟨⟨rfl, rfl, fun k => { k with rl := h k.rl }⟩, rfl, fun _ => rfl⟩

theorem removeCall_presets (slot : Nat) (s : State) (h : s.rl.presets.rising = true) : (removeCall slot s).rl.presets.rising = true := by
  simp only [removeCall]; exact Table.rising_mapWrite _ _ _ h

theorem removeCall_listsKept (slot : Nat) (s : State) : ListsKept s (removeCall slot s) :=
  relay_listsKept s _ (fun h => { h with calls := Table.rising_remove _ _ h.calls, presets := removeCall_presets slot s h.presets })

theorem endCall_listsKept (slot : Nat) (s : State) : ListsKept s (endCall slot s) := by
  unfold endCall
  split
  · exact ListsKept.refl _
  · next c _ =>
    have h := (releaseCallRoutes_internal c s).toListsKept.trans (removeCall_listsKept slot _)
    exact (((h.trans (freeZones_internal _ _).toListsKept).trans (refreshLamps_internal _).toListsKept).trans
      (emitFreed_internal _ _).toListsKept).trans (scan_internal _).toListsKept

theorem enqueueCall_listsKept (k : CallKind) (zs : List Nat) (p : Nat) (d : Int) (w : Nat) (o : CallOrigin) (s : State) :
    ListsKept s (enqueueCall k zs p d w o s).1 :=
  relay_listsKept s _ (fun h => { h with calls := Table.rising_store _ _ _ h.calls })

theorem placePreset_listsKept (p : Nat) (o : CallOrigin) (s : State) : ListsKept s (placePreset p o s) := by
  unfold placePreset
  simp only
  split
  · exact ListsKept.refl _
  · exact ((enqueueCall_listsKept _ _ _ _ _ _ s).trans (updCallPreset_listsKept _ _ _)).trans (scan_internal _).toListsKept

/-! ## Standby -/

theorem dropWaits_internal (l n : Nat) (s : State) : Internal s (dropWaits l n s) := waits_internal s _

theorem releaseLabels_internal (l n : Nat) (s : State) : Internal s (releaseLabels l n s) :=
  (dropWaits_internal l n s).trans (Internal.forEach (fun v t => releaseVoice_internal v t) _ _)

theorem releaseStandby_internal (l : Nat) (s : State) : Internal s (releaseStandby l s) := by
  unfold releaseStandby
  split
  · exact Internal.refl _
  · exact releaseLabels_internal _ _ _

theorem standbyClaim_internal (l n : Nat) (c : Cue) (p : Nat × Nat × Nat × Nat × Int × Nat) (s : State) :
    Internal s (standbyClaim l n c p s) := by
  have h := claimVoice_internal (playClaim (.standby l n p.1) c p) s
  unfold standbyClaim
  split
  · next heq => rw [heq] at h; exact h.trans (waits_internal _ _)
  · next heq => rw [heq] at h; exact h

/-- The claims of a new standby and its first reassessment, after the list has taken it (R69 steps 4 and 5). -/
theorem standbyClaims_internal (l n : Nat) (s : State) :
    Internal s (reassess l (match cueOf s l n with
      | none => s
      | some c => (playsOf c).foldl (fun s p => standbyClaim l n c p s) s)) := by
  refine Internal.trans ?_ (reassess_internal _ _)
  split
  · exact Internal.refl _
  · exact Internal.foldl (p := id) _ (fun a b => standbyClaim_internal _ _ _ _ _) _ s

theorem takeStandby_kept (l n : Nat) (s : State) : Kept s (takeStandby l n s) :=
  (updList_kept l _ s).trans (standbyClaims_internal l n _).toKept

theorem makeStandby_kept (l n : Nat) (s : State) : Kept s (makeStandby l n s) :=
  (releaseStandby_internal l s).toKept.trans (takeStandby_kept l n _)

theorem noStandby_kept (l : Nat) (s : State) : Kept s (noStandby l s) := updList_kept l _ s

theorem endList_kept (l : Nat) (s : State) : Kept s (endList l s) :=
  ((updList_kept l _ s).trans (emit_internal _ _).toKept).trans (raise_internal _ _ _).toKept

/-! ## Cue actions -/

theorem countIf_internal (b : Bool) (g : GoContext) (s : State) : Internal s (countIf b g s) := by
  unfold countIf
  split
  · exact countFade_internal _ s
  · exact Internal.refl _

theorem actRoute_internal (g : GoContext) (src : SrcArg) (dst : Nat) (v : Level) (f : Option FadeArg) (x : Option Nat) (p : Option Bool)
    (s : State) : Internal s (actRoute g src dst v f x p s).1 := by
  unfold actRoute
  split
  · exact Internal.refl _
  · simp only
    split
    · refine Internal.trans ?_ (giveSetProt_internal _ _ _ _)
      refine Internal.trans ?_ (setBase_internal _ _ _ _ _ _)
      refine Internal.trans ?_ (countIf_internal _ _ _)
      split
      · exact reclaim_internal _ _
      · exact (reclaim_internal _ s).trans (adopt_internal _ _ _)
    · split
      · exact raise_internal _ _ _
      · refine Internal.trans (countIf_internal (f.map fadeArg).isSome g s) ?_
        dsimp only
        exact createRoute_internal _ _

theorem retireCounted_internal (g : GoContext) (f : FadeArg) (h : Nat) (s : State) : Internal s (retireCounted g f h s) := by
  unfold retireCounted
  split
  · exact Internal.refl _
  · split
    · exact (countFade_internal _ s).trans (retireRoute_internal _ _ _)
    · exact Internal.refl _

theorem actRetire_internal (g : GoContext) (t : RetireTarget) (f : FadeArg) (s : State) : Internal s (actRetire g t f s).1 := by
  unfold actRetire
  split
  · split
    · exact Internal.refl _
    · exact retireCounted_internal _ _ _ _
  · exact Internal.forEach (fun n t => retireCounted_internal _ _ n t) _ _
  · exact Internal.forEach (fun n t => retireCounted_internal _ _ n t) _ _
  · exact Internal.refl _

theorem startFadeIn_internal (g : GoContext) (v : Nat) (s : State) : Internal s (startFadeIn g v s) := by
  unfold startFadeIn
  split
  · exact (countFade_internal _ s).trans (updVoice_internal _ _ _)
  · exact Internal.refl _

theorem actPlay_internal (g : GoContext) (p : Nat × Nat × Nat × Nat × Int × Nat) (s : State) : Internal s (actPlay g p s).1 := by
  unfold actPlay
  split
  · simp only
    split
    · exact (updVoice_internal _ _ s).trans (startFadeIn_internal _ _ _)
    · exact ((updVoice_internal _ _ s).trans (countLate_internal _ _)).trans (startFadeIn_internal _ _ _)
  · have h := claimVoice_internal (playClaim (.running g.list g.take p.1) g.cue p) s
    split
    · next heq => rw [heq] at h; exact h
    · next heq => rw [heq] at h; exact h.trans (raise_internal _ _ _)
    · next heq =>
      rw [heq] at h
      exact (((h.trans (updRunning_internal _ _ _ _)).trans (updVoice_internal _ _ _)).trans (countLate_internal _ _)).trans
        (startFadeIn_internal _ _ _)

theorem skipPlay_internal (g : GoContext) (l : Nat) (s : State) : Internal s (skipPlay g l s) := by
  unfold skipPlay
  split
  · exact releaseVoice_internal _ _
  · exact Internal.refl _

theorem stopVoice_internal (g : GoContext) (d n : Nat) (s : State) : Internal s (stopVoice g d n s) := by
  unfold stopVoice
  simp only
  split
  · exact ((updVoice_internal _ _ s).trans (settle_internal _ _)).trans (countFade_internal _ _)
  · split
    · exact releaseVoice_internal _ _
    · exact Internal.refl _

theorem actStop_internal (g : GoContext) (t : StopTarget) (d : Nat) (s : State) : Internal s (actStop g t d s).1 :=
  Internal.forEach (fun n t => stopVoice_internal _ _ n t) _ _

theorem actExit_internal (g : GoContext) (t : StopTarget) (s : State) : Internal s (actExit g t s).1 :=
  Internal.forEach (fun n t => setExit_internal n t) _ _

theorem actFbBase_internal (g : GoContext) (mix src : Nat) (v : Level) (f : Option FadeArg) (rt rm : Bool) (s : State) :
    Internal s (actFbBase g mix src v f rt rm s).1 := by
  unfold actFbBase
  split
  · exact Internal.refl _
  · split
    · exact retireCounted_internal _ _ _ _
    · exact Internal.refl _
    · simp only
      have h (n : Nat) := ((reclaim_internal n s).trans (countIf_internal (f.map fadeArg).isSome g _)).trans
        (setBase_internal n v (f.map fadeArg) (.cue g.list) (some (goBy g)) _)
      split
      · exact (h _).trans (updRoute_internal _ _ _)
      · exact h _
    · split
      · exact Internal.refl _
      · split
        · exact raise_internal _ _ _
        · refine Internal.trans (countIf_internal (f.map fadeArg).isSome g s) ?_
          dsimp only
          exact createRoute_internal _ _

theorem actCall_listsKept (g : GoContext) (t : CallTarget) (s : State) : ListsKept s (actCall g t s).1 := by
  unfold actCall
  split
  · split
    · exact ListsKept.refl _
    · exact placePreset_listsKept _ _ _
  · simp only
    split
    · exact ListsKept.refl _
    · split
      · exact ListsKept.refl _
      · exact (enqueueCall_listsKept _ _ _ _ _ _ s).trans (scan_internal _).toListsKept
  · exact ListsKept.refl _

theorem writePair_internal (a b : Nat) (r : Bool) (s : State) : Internal s (writePair a b r s) :=
  (writeCond_internal _ _ s).trans (writeCond_internal _ _ _)

theorem runAction_listsKept (g : GoContext) (k : ActionKind) (s : State) : ListsKept s (runAction g k s).1 := by
  cases k with
  | route src dst v f x p => rw [runAction]; exact (actRoute_internal g src dst v f x p s).toListsKept
  | retire t f => rw [runAction]; exact (actRetire_internal g t f s).toListsKept
  | play a b c d e f => rw [runAction]; exact (actPlay_internal g _ s).toListsKept
  | stop t d => rw [runAction]; exact (actStop_internal g t d s).toListsKept
  | exit t => rw [runAction]; exact (actExit_internal g t s).toListsKept
  | fbBase mix src v f rt rm => rw [runAction]; exact (actFbBase_internal g mix src v f rt rm s).toListsKept
  | call t => rw [runAction]; exact actCall_listsKept g t s
  | test r f a b => rw [runAction]; dsimp only; exact (writePair_internal _ _ _ s).toListsKept
  | check x m f a b => rw [runAction]; dsimp only; exact (writePair_internal _ _ _ s).toListsKept
  | setc c v => rw [runAction]; dsimp only; exact (writeCond_internal _ _ s).toListsKept
  | clears x m => rw [runAction]; dsimp only; exact (clearFlags_internal _ _ s).toListsKept
  | outputs a b => rw [runAction]; dsimp only; exact (driveFn_internal _ _ s).toListsKept
  | event h => rw [runAction]; dsimp only; exact (emit_internal _ s).toListsKept
  | other n => rw [runAction]; exact ListsKept.refl s

theorem skipAction_internal (g : GoContext) (k : ActionKind) (s : State) : Internal s (skipAction g k s) := by
  unfold skipAction
  split
  · exact skipPlay_internal _ _ _
  · exact (writeCond_internal _ _ s).trans (writeCond_internal _ _ _)
  · exact (writeCond_internal _ _ s).trans (writeCond_internal _ _ _)
  · exact Internal.refl _

theorem goAction_listsKept (g : GoContext) (acc : State × CueOutcome) (a : Action) : ListsKept acc.1 (goAction g acc a).1 := by
  have h := runAction_listsKept g a.kind acc.1
  unfold goAction
  simp only
  split
  · split
    · next heq => rw [heq] at h; exact h
    · next heq => rw [heq] at h; exact h.trans (raise_internal _ _ _).toListsKept
  · exact (skipAction_internal g a.kind acc.1).toListsKept

/-- Each action of a GO is counted once (R86). -/
theorem goAction_counts (g : GoContext) (acc : State × CueOutcome) (a : Action) :
    (goAction g acc a).2.done + (goAction g acc a).2.skipped + (goAction g acc a).2.failed
      = acc.2.done + acc.2.skipped + acc.2.failed + 1 := by
  unfold goAction
  simp only
  split
  · split <;> simp only <;> omega
  · simp only; omega

end Sys2Proof.Machine
end

