-- ==== Sys2Proof/Laws/Commands.lean ====
section
/-! SUPPORT. What each command's own operation leaves alone: a GO and the completions (`Kept`), and the the clocks
(`Inner`). -/

namespace Sys2Proof.Machine

/-! ## A GO -/

/-- The cues' outcomes change and nothing else. -/
theorem setOutcome_kept (l n : Nat) (o : CueOutcome) (s : State) : Kept s (setOutcome l n o s) :=
  ⟨rfl, rfl, fun k => { k with cq := { k.cq with
    cues := Table.rising_mapAll (fun x (c : Cue) => if x = cueKey l n then { c with outcome := some o } else c) _ k.cq.cues } }⟩

theorem advancePointer_kept (l n : Nat) (take : Option Nat) (s : State) : Kept s (advancePointer l n take s) := by
  unfold advancePointer
  split
  · exact endList_kept l s
  · dsimp only
    split
    · exact makeStandby_kept l _ s
    · exact (makeStandby_kept l _ s).trans (updList_kept l _ _)

theorem goTaken_kept (l : Nat) (s : State) : Kept s (goTaken l s) := by
  unfold goTaken
  refine Kept.trans ?_ (emit_internal _ _).toKept
  exact updList_kept l _ s

theorem takeFalse_kept (l n : Nat) (c : Cue) (s : State) : Kept s (takeFalse l n c s) := by
  unfold takeFalse
  refine Kept.trans ?_ (emit_internal _ _).toKept
  refine Kept.trans ?_ (goTaken_kept l _)
  refine Kept.trans ?_ (advancePointer_kept l n none _)
  refine Kept.trans ?_ (setOutcome_kept l n _ _)
  exact (releaseLabels_internal l n s).toKept

theorem overflow_internal (l : Nat) (s : State) : Internal s (overflow l s) := by
  unfold overflow
  split
  · split
    · exact completeRunning_internal _ _ _
    · exact Internal.refl _
  · exact Internal.refl _

theorem makeRunning_kept (l n take : Nat) (s : State) : Kept s (makeRunning l n take s) := updList_kept l _ s

theorem passVoices_internal (l n take : Nat) (s : State) : Internal s (passVoices l n take s) := by
  unfold passVoices
  refine Internal.trans (dropWaits_internal l n s) (Internal.forEach (fun v t => ?_) _ _)
  split
  · exact (updVoice_internal _ _ t).trans (updRunning_internal _ _ _ _)
  · exact Internal.refl _

theorem finishTaking_internal (l take : Nat) (s : State) : Internal s (finishTaking l take s) :=
  (updRunning_internal _ _ _ s).trans (completionTest_internal _ _ _)

theorem noteLate_internal (l : Nat) (o : CueOutcome) (s : State) : Internal s (noteLate l o s) := by
  unfold noteLate
  split
  · exact raise_internal _ _ _
  · exact Internal.refl _

theorem takeTrue_kept (l n : Nat) (c : Cue) (s : State) : Kept s (takeTrue l n c s).1 := by
  unfold takeTrue
  dsimp only
  refine Kept.trans ?_ (finishTaking_internal _ _ _).toKept
  refine Kept.trans ?_ (goTaken_kept l _)
  refine Kept.trans ?_ (advancePointer_kept l n _ _)
  refine Kept.trans ?_ (setOutcome_kept l n _ _)
  refine Kept.trans ?_ (noteLate_internal _ _ _).toKept
  refine Kept.trans ?_ (ListsKept.foldl (fun a : State × CueOutcome => a.1) _ (goAction_listsKept _) c.actions _).toKept
  refine Kept.trans ?_ (passVoices_internal _ _ _ _).toKept
  exact (overflow_internal l s).toKept.trans (makeRunning_kept l n _ _)

theorem takeCue_kept (l : Nat) (s : State) : Kept s (takeCue l s).1 := by
  unfold takeCue
  split
  · exact Kept.refl _
  · dsimp only
    split
    · dsimp only
      refine Kept.trans ?_ (takeTrue_kept _ _ _ _)
      exact updList_kept l _ s
    · dsimp only
      refine Kept.trans ?_ (takeFalse_kept _ _ _ _)
      exact updList_kept l _ s

theorem goByHand_kept (l : Nat) (s : State) : Kept s (goByHand l s).1 := by
  have h := takeCue_kept l s
  unfold goByHand
  split
  · exact Kept.refl _
  · split
    · exact Kept.refl _
    · rcases e : takeCue l s with ⟨t, _ | ⟨n, k, late⟩⟩ <;> rw [e] at h <;> rcases (listOf s l).sinceGo with _ | x <;> dsimp only at h ⊢ <;>
        split <;> first | exact h | exact (raise_internal .goIgnored (.num l) s).toKept

theorem armEvent_kept (l : Nat) (e : InFlight) (s : State) : Kept s (armEvent l e s) := by
  unfold armEvent
  split
  · exact Kept.refl _
  · exact updList_kept l _ s

theorem triggerGo_kept (l : Nat) (s : State) : Kept s (triggerGo l s) := by
  unfold triggerGo
  split
  · exact Kept.refl _
  · exact (rejoin_internal _ s).toKept.trans (takeCue_kept l _)

/-- A delivery begins a cause, marks the event as had and does what its consumer does; with nothing to take it changes nothing. -/
theorem deliver_cases (k : Consumer) (act : InFlight → State → State) (s : State) :
    deliver k act s = s ∨ ∃ e t, Delivered k e s t ∧ deliver k act s = act e t := by
  unfold deliver
  split
  · exact .inl rfl
  · next e h => exact .inr ⟨e, _, ⟨h, rfl⟩, rfl⟩

theorem Delivered.internal {k : Consumer} {e : InFlight} {s t : State} (h : Delivered k e s t) : Internal s t := by
  obtain ⟨-, rfl⟩ := h
  exact (begin_internal (e.depth + 1) s).trans
    ⟨⟨⟨rfl, rfl, fun k => { k with ef := { k.ef with } }⟩, rfl, fun _ => rfl⟩, fun _ => rfl, rfl, rfl⟩

/-! ## Completions -/

theorem endBaseFade_internal (h : Nat) (s : State) : Internal s (endBaseFade h s) := by
  unfold endBaseFade
  split
  · exact Internal.refl _
  · dsimp only
    split
    · exact ((updRoute_internal _ _ s).trans (settle_internal _ _)).trans (releaseRoute_internal _ _)
    · exact (updRoute_internal _ _ s).trans (settle_internal _ _)

theorem expireWindow_internal (id : Nat) (s : State) : Internal s (expireWindow id s) := by
  unfold expireWindow
  split
  · exact Internal.refl _
  · split
    · exact batches_internal _ _ (fun k => Table.rising_store _ _ _ k)
    · exact Internal.refl _

theorem completeBatch_internal (id : Nat) (s : State) : Internal s (completeBatch id s) := by
  unfold completeBatch
  split
  · exact Internal.refl _
  · split
    · exact Internal.forEach (fun h t => (updRoute_internal _ _ t).trans (releaseRoute_internal _ _)) _ _
    · exact Internal.refl _

theorem startVoice_internal (n : Nat) (s : State) : Internal s (startVoice n s) := by
  unfold startVoice
  dsimp only
  split
  · refine Internal.trans ?_ (makeRequest_internal _ _)
    refine Internal.trans (updVoice_internal n startedVoice s) ?_
    split
    · split
      · exact settleLate_internal _ _ _
      · exact Internal.refl _
    · exact updCall_internal (by exact fun _ => rfl) _
    · exact Internal.refl _
  · exact Internal.refl _

theorem handOn_internal (ws : List Waiting) (s : State) :
    Internal s (match offerTo ws s with | (t, true) => scan t | (t, false) => t) := by
  have h := offerTo_internal ws s
  rcases e : offerTo ws s with ⟨t, _ | _⟩ <;> rw [e] at h
  · exact h
  · exact h.trans (scan_internal _)

theorem endVoice_listsKept (n : Nat) (s : State) : ListsKept s (endVoice n s) := by
  unfold endVoice
  dsimp only
  split
  · refine ListsKept.trans ?_ (handOn_internal _ _).toListsKept
    refine ListsKept.trans ?_ (clearVoice_internal n _).toListsKept
    refine (settleVoice_internal n s).toListsKept.trans ?_
    split
    · exact endCall_listsKept _ _
    · exact ListsKept.refl _
  · exact ListsKept.refl _

theorem endVoiceFade_internal (n : Nat) (s : State) : Internal s (endVoiceFade n s) := by
  unfold endVoiceFade
  split
  · exact Internal.refl _
  · split
    · split
      · exact (updVoice_internal _ _ s).trans (releaseVoice_internal _ _)
      · exact (updVoice_internal _ _ s).trans (settle_internal _ _)
    · exact Internal.refl _

theorem expireCall_listsKept (slot : Nat) (s : State) : ListsKept s (expireCall slot s) := by
  unfold expireCall
  split
  · exact ListsKept.refl _
  · split
    · exact (removeCall_listsKept slot s).trans (raise_internal _ _ _).toListsKept
    · exact ListsKept.refl _

/-! ## Clocks, contacts, the key -/

theorem Inner.forEach {f : Nat → State → State} (h : ∀ n t, Inner t (f n t)) (l : List Nat) (s : State) : Inner s (forEach l f s) :=
  forEach_keeps f (P := fun t => Inner s t) (fun n _ k => k.trans (h n _)) l s (Inner.refl s)

theorem Internal.inner {s t : State} (h : Internal s t) : Inner s t := h.toKept.inner
theorem ListsKept.inner {s t : State} (h : ListsKept s t) : Inner s t := h.toKept.inner

theorem meters_rising (t : Table Nat) (h : t.rising = true) :
    Table.rising ((t.map (fun p => (p.1, meterOf p.2))).filter (fun p => p.2 ≠ .off)) = true := by
  refine Table.rising_filter _ _ ?_
  rw [Table.rising_iff] at *
  simpa [Function.comp_def] using h

theorem endMeterWindow_inner (s : State) : Inner s (endMeterWindow s) := by
  unfold endMeterWindow
  split
  · refine ⟨rfl, rfl, rfl, rfl, rfl, rfl, fun k => { k with le := { k.le with meters := ?_, peaks := rfl } }⟩
    exact meters_rising _ k.le.peaks
  · exact Inner.refl _

theorem setTimer_inner (t n : Nat) (s : State) : Inner s (setTimer t n s) :=
  ⟨rfl, rfl, rfl, rfl, rfl, rfl, fun k => { k with ef := { k.ef with timers := Table.rising_write _ _ _ _ k.ef.timers } }⟩

theorem endTimerPeriod_inner (t : Nat) (s : State) : Inner s (endTimerPeriod t s) := by
  unfold endTimerPeriod
  split
  · exact (setTimer_inner _ _ s).trans (emit_internal _ _).inner
  · exact Inner.refl _

theorem updInput_inner (i : Nat) (f : ContactIn → ContactIn) (s : State) : Inner s (updInput i f s) :=
  ⟨rfl, rfl, rfl, rfl, rfl, rfl, fun k => { k with ef := { k.ef with inputs := Table.rising_write _ _ _ _ k.ef.inputs } }⟩

theorem updWatch_inner (w : Nat) (f : Watch → Watch) (s : State) : Inner s (updWatch w f s) :=
  ⟨rfl, rfl, rfl, rfl, rfl, rfl, fun k => { k with ef := { k.ef with watches := Table.rising_write _ _ _ _ k.ef.watches } }⟩

theorem updMix_inner (m : Nat) (f : Mix → Mix) (s : State) : Inner s (updMix m f s) :=
  ⟨rfl, rfl, rfl, rfl, rfl, rfl, fun k => { k with fb := { k.fb with mixes := Table.rising_write _ _ _ _ k.fb.mixes } }⟩

theorem updPanel_inner (a : Nat) (f : Panel → Panel) (s : State) : Inner s (updPanel a f s) :=
  ⟨rfl, rfl, rfl, rfl, rfl, rfl, fun k => { k with fb := { k.fb with panels := Table.rising_write _ _ _ _ k.fb.panels } }⟩

theorem mirror_internal (c : ContactIn) (s : State) : Internal s (mirror c s) := by
  unfold mirror
  split
  · exact Internal.refl _
  · exact writeCond_internal _ _ _

theorem acceptChange_inner (line : Nat) (s : State) : Inner s (acceptChange line s) := by
  unfold acceptChange
  dsimp only
  have h := (updInput_inner line acceptedInput s).trans (mirror_internal (inputOf s line) _).inner
  split
  · exact (h.trans (emit_internal _ _).inner).trans (emit_internal _ _).inner
  · exact h

theorem changeContact_inner (line : Nat) (level : Bool) (s : State) : Inner s (changeContact line level s) := by
  unfold changeContact
  dsimp only
  split
  · exact Inner.refl s
  · split
    · exact updInput_inner _ _ s
    · split
      · exact (updInput_inner _ _ s).trans (acceptChange_inner _ _)
      · exact updInput_inner _ _ s

theorem settleContact_inner (line : Nat) (s : State) : Inner s (settleContact line s) := by
  unfold settleContact
  split
  · exact acceptChange_inner _ _
  · exact Inner.refl s

theorem showState_inner (x : ShowState) (s : State) : Inner s { s with ss := x } :=
  ⟨rfl, rfl, rfl, rfl, rfl, rfl, fun k => { k with }⟩

theorem changeKey_inner (level : Bool) (s : State) : Inner s (changeKey level s) := by
  unfold changeKey
  split
  · exact Inner.refl s
  · exact ((showState_inner _ s).trans (emit_internal _ _).inner).trans (raise_internal _ _ _).inner

theorem playVoice_internal (n : Nat) (s : State) : Internal s (playVoice n s) := by
  unfold playVoice
  dsimp only
  refine Internal.trans ?_ (makeRequest_internal n _)
  split
  · exact (updVoice_internal n _ s).trans (raise_internal _ _ _)
  · exact updVoice_internal n _ s

/-- A fold of updates that each keep a table rising keeps it rising. -/
theorem foldl_rising {α β : Type} (f : Table α → β → Table α) (hf : ∀ t b, t.rising = true → (f t b).rising = true) :
    ∀ (l : List β) (t : Table α), t.rising = true → (l.foldl f t).rising = true
  | [], _, h => h
  | b :: l, t, h => foldl_rising f hf l (f t b) (hf t b h)

theorem addPeaks_rising (x : Nat → Int) (t : Table Nat) (h : t.rising = true) : (addPeaks x t).rising = true := by
  unfold addPeaks
  exact foldl_rising _ (fun _ _ => Table.rising_write _ _ _ _) _ t h

theorem levels_inner (s : State) (x : LevelEngine) (h : s.le.Ordered → x.Ordered) : Inner s { s with le := x } :=
  ⟨rfl, rfl, rfl, rfl, rfl, rfl, fun k => { k with le := h k.le }⟩

theorem setTrue_rising (l : List Nat) (t : Table Bool) (h : t.rising = true) :
    (l.foldl (fun t d => t.write false d true) t).rising = true :=
  foldl_rising (fun t d => t.write false d true) (fun _ _ => Table.rising_write _ _ _ _) l t h

/-- New levels out, clamps noted and peaks. -/
theorem sampled_inner (s : State) (ys : List Int) (o : Table Bool) (p : Table Nat) (n : Nat)
    (ho : s.le.overDsts.rising = true → o.rising = true) (hp : s.le.peaks.rising = true → p.rising = true) :
    Inner s { s with le := { s.le with outputs := ys, overDsts := o, peaks := p, sample := n } } :=
  levels_inner s _ (fun h => { h with peaks := hp h.peaks, overDsts := ho h.overDsts })

theorem mixSample_inner (lanes : List Sample) (s : State) : Inner s (mixSample lanes s) := by
  unfold mixSample
  exact sampled_inner s _ _ _ _ (setTrue_rising _ _) (addPeaks_rising _ _)

theorem samplePeriod_inner (lanes : List Sample) (s : State) : Inner s (samplePeriod lanes s) :=
  (mixSample_inner lanes s).trans (Inner.forEach (fun n t => (playVoice_internal n t).inner) _ _)

theorem stepLevels_inner (s : State) : Inner s (stepLevels s) := by
  have h : ∀ (l : List (Nat × Flags)) (t : State), Internal t (l.foldl (fun s p => meetFlags p.1 p.2 s) t) := by
    intro l
    induction l with
    | nil => exact fun t => Internal.refl t
    | cons p l ih => exact fun t => (meetFlags_internal _ _ t).trans (ih _)
  unfold stepLevels
  dsimp only
  refine Inner.trans ?_ (h _ _).inner
  refine ⟨rfl, rfl, rfl, rfl, rfl, rfl, fun k => { k with rt := { k.rt with routes := ?_ }, le := { k.le with crosspoints := ?_, overDsts := rfl } }⟩
  · have a := k.rt.routes
    rw [Table.rising_iff] at a ⊢
    simpa [steppedRoutes, Function.comp_def] using a
  · exact foldl_rising _ (fun _ _ => Table.rising_write _ _ _ _) _ _ (Table.rising_mapWrite _ _ _ k.le.crosspoints)

theorem stepTimers_rising (t : Table Nat) (h : t.rising = true) : (stepTimers t).rising = true := by
  unfold stepTimers
  exact foldl_rising _ (fun _ _ => Table.rising_write _ _ _ _) _ _ h

theorem stepCounts_inner (s : State) : Inner s (stepCounts s) :=
  ⟨rfl, rfl, rfl, rfl, rfl, rfl, fun k => { k with
    ef := { k.ef with
      inputs := Table.rising_mapWrite ContactIn.init (fun _ => stepInput) _ k.ef.inputs
      timers := stepTimers_rising _ k.ef.timers }
    cq := { k.cq with lists := Table.rising_mapWrite CueList.init (fun _ => stepList _) _ k.cq.lists }
    rl := { k.rl with calls := Table.rising_mapAll (fun _ => stepCall) _ k.rl.calls }
    le := { k.le with } }⟩

theorem frameBoundary_inner (s : State) : Inner s (frameBoundary s) := by
  unfold frameBoundary
  dsimp only
  have h1 (s : State) : Inner s { s with
      ve := { s.ve with voices := s.ve.voices.mapWrite Voice.init (fun _ => stepVoice s.ss.stopped) }
      ru := { s.ru with batches := s.ru.batches.mapAll (fun _ => stepBatch) } } :=
    ⟨rfl, rfl, rfl, rfl, rfl, rfl, fun k => { k with
      ve := { k.ve with voices := Table.rising_mapWrite Voice.init (fun _ => stepVoice s.ss.stopped) _ k.ve.voices }
      ru := Table.rising_mapAll (fun _ => stepBatch) _ k.ru }⟩
  refine (((beginBoundary_internal s).inner.trans (h1 _)).trans (stepLevels_inner _)).trans (stepCounts_inner _)

end Sys2Proof.Machine
end

