-- ==== Sys2Proof/Laws/Memory.lean ====
section
/-! SUPPORT. The sample memory's laws: a read after a write, every other word untouched, and the canonical form kept by every operation. -/

namespace Sys2Proof.Machine

@[simp] theorem SampleMemory.put_epoch (m : SampleMemory) (a : Nat) (x : Sample) : (m.put a x).epoch = m.epoch := rfl

theorem SampleMemory.unlisted_put (m : SampleMemory) (a : Nat) (x : Sample) (b : Nat) : (m.put a x).unlisted b = m.unlisted b := rfl

/-- A read after a write: the word written, every other word as before. -/
theorem SampleMemory.sampleAt_put (m : SampleMemory) (a : Nat) (x : Sample) (b : Nat) :
    (m.put a x).sampleAt b = if b = a then x else m.sampleAt b := by
  unfold SampleMemory.sampleAt
  rw [SampleMemory.unlisted_put]
  unfold SampleMemory.put
  simp only
  split
  · next h =>
    rw [Table.find_remove]
    split
    · next hb => subst hb; simp [h]
    · rfl
  · rw [Table.find_store]
    split <;> simp_all

/-- One word written keeps the canonical form. -/
theorem SampleMemory.wf_put (m : SampleMemory) (a : Nat) (x : Sample) (h : m.wf = true) : (m.put a x).wf = true := by
  simp only [SampleMemory.wf, Bool.and_eq_true, List.all_eq_true, decide_eq_true_eq] at *
  unfold SampleMemory.put
  simp only
  split
  · exact ⟨Table.rising_remove _ _ h.1, fun p hp => h.2 p (List.mem_of_mem_filter hp)⟩
  · next hx =>
    refine ⟨Table.rising_store _ _ _ h.1, fun p hp => ?_⟩
    rcases Table.mem_store hp with rfl | hp
    · exact hx
    · exact h.2 p hp

/-- Words written keep the canonical form. -/
theorem SampleMemory.wf_putAll (l : List Sample) : ∀ (m : SampleMemory) (a : Nat), m.wf = true → (m.putAll a l).wf = true := by
  induction l with
  | nil => intro m a h; exact h
  | cons x l ih => intro m a h; exact ih _ _ (SampleMemory.wf_put m a x h)

/-- Words written from `a` on: each word of the range holds its sample, every other word is as before (R113). -/
theorem SampleMemory.sampleAt_putAll (l : List Sample) :
    ∀ (m : SampleMemory) (a b : Nat), (m.putAll a l).sampleAt b = if a ≤ b ∧ b < a + l.length then l.getD (b - a) 0 else m.sampleAt b := by
  induction l with
  | nil => intro m a b; simp [SampleMemory.putAll]
  | cons x l ih =>
    intro m a b
    simp only [SampleMemory.putAll, ih, SampleMemory.sampleAt_put, List.length_cons]
    by_cases h : b = a
    · subst h; simp
    · by_cases h2 : a + 1 ≤ b ∧ b < a + 1 + l.length
      · have h3 : a ≤ b ∧ b < a + (l.length + 1) := by omega
        rw [if_pos h2, if_pos h3]
        obtain ⟨n, hn⟩ : ∃ n, b - a = n + 1 := ⟨b - a - 1, by omega⟩
        have : b - (a + 1) = n := by omega
        rw [this, hn]; rfl
      · have h3 : ¬ (a ≤ b ∧ b < a + (l.length + 1)) := by omega
        rw [if_neg h2, if_neg h3, if_neg h]

end Sys2Proof.Machine
end

