-- ==== Sys2Proof/Laws/PerInstr.lean ====
section
/-! SUPPORT. A law of every command: the commands of the desk alone and those that only read are requests, and no command is both. -/

namespace Sys2Proof.Laws

open Sys2Proof.Machine

/-- The classes of TABLE 11-1 and TABLE 11-2 hold of requests only, and do not overlap. -/
def WellFormedRequest.Statement (i : Instr) : Prop :=
  (deskOnly i = true ∨ readsOnly i = true → i.header.isSome = true) ∧ (deskOnly i && readsOnly i) = false

theorem WellFormedRequest.ofHeader {i : Instr} (a : i.header.isSome = true) (b : (deskOnly i && readsOnly i) = false) : Statement i :=
  ⟨fun _ => a, b⟩

theorem WellFormedRequest.ofNone {i : Instr} (a : deskOnly i = false) (b : readsOnly i = false) : Statement i :=
  ⟨fun h => by simp [a, b] at h, by simp [a, b]⟩

theorem WellFormedRequest.coldReset : Statement .coldReset := ofNone rfl rfl
theorem WellFormedRequest.startUpComplete (sizeLog : Nat) : Statement (.startUpComplete sizeLog) := ofNone rfl rfl
theorem WellFormedRequest.writeRequest (port : Port) (bytes : List Byte) : Statement (.writeRequest port bytes) := ofNone rfl rfl
theorem WellFormedRequest.readReply (port : Port) (clocked : Nat) : Statement (.readReply port clocked) := ofNone rfl rfl
theorem WellFormedRequest.unknownSelector (port : Port) (clocked : Nat) : Statement (.unknownSelector port clocked) := ofNone rfl rfl
theorem WellFormedRequest.unknownRequest (h : Hdr) (kind : Nat) : Statement (.unknownRequest h kind) := ofHeader rfl rfl
theorem WellFormedRequest.postRoute (h : Hdr) (r : PostArgs) : Statement (.postRoute h r) := ofHeader rfl rfl
theorem WellFormedRequest.amendRoute (h : Hdr) (r : AmendArgs) : Statement (.amendRoute h r) := ofHeader rfl rfl
theorem WellFormedRequest.lookupRoute (h : Hdr) (src dst : Nat) : Statement (.lookupRoute h src dst) := ofHeader rfl rfl
theorem WellFormedRequest.readRoute (h : Hdr) (handle : Nat) : Statement (.readRoute h handle) := ofHeader rfl rfl
theorem WellFormedRequest.listRoutes (h : Hdr) (dst : Nat) (start : Option Nat) : Statement (.listRoutes h dst start) := ofHeader rfl rfl
theorem WellFormedRequest.setSourceTrim (h : Hdr) (src : Nat) (trim : Int) : Statement (.setSourceTrim h src trim) := ofHeader rfl rfl
theorem WellFormedRequest.setMaster (h : Hdr) (dst : Nat) (level : Level) (set : Option Nat) : Statement (.setMaster h dst level set) := ofHeader rfl rfl
theorem WellFormedRequest.setStatusControls (h : Hdr) (set : Nat) (clamp round : Option Nat) (mask : Option (BitVec 8)) : Statement (.setStatusControls h set clamp round mask) := ofHeader rfl rfl
theorem WellFormedRequest.readStatus (h : Hdr) (set : Nat) : Statement (.readStatus h set) := ofHeader rfl rfl
theorem WellFormedRequest.clearStatus (h : Hdr) (set : Nat) (mask : BitVec 8) : Statement (.clearStatus h set mask) := ofHeader rfl rfl
theorem WellFormedRequest.readMeters (h : Hdr) (first count : Nat) : Statement (.readMeters h first count) := ofHeader rfl rfl
theorem WellFormedRequest.readLevels (h : Hdr) : Statement (.readLevels h) := ofHeader rfl rfl
theorem WellFormedRequest.retireRoute (h : Hdr) (route : RouteRef) (dur curve : Option Nat) : Statement (.retireRoute h route dur curve) := ofHeader rfl rfl
theorem WellFormedRequest.retireGroup (h : Hdr) (owner : Nat) (dst : Option Nat) (dur curve : Option Nat) : Statement (.retireGroup h owner dst dur curve) := ofHeader rfl rfl
theorem WellFormedRequest.setRetireWindow (h : Hdr) (window : Nat) : Statement (.setRetireWindow h window) := ofHeader rfl rfl
theorem WellFormedRequest.readBatch (h : Hdr) (id : Nat) : Statement (.readBatch h id) := ofHeader rfl rfl
theorem WellFormedRequest.postCue (h : Hdr) (c : CueArgs) : Statement (.postCue h c) := ofHeader rfl rfl
theorem WellFormedRequest.replaceCue (h : Hdr) (c : CueArgs) : Statement (.replaceCue h c) := ofHeader rfl rfl
theorem WellFormedRequest.retireCue (h : Hdr) (list number : Nat) : Statement (.retireCue h list number) := ofHeader rfl rfl
theorem WellFormedRequest.readCue (h : Hdr) (list number : Nat) (atOrAfter : Bool) : Statement (.readCue h list number atOrAfter) := ofHeader rfl rfl
theorem WellFormedRequest.setStandby (h : Hdr) (list number : Nat) : Statement (.setStandby h list number) := ofHeader rfl rfl
theorem WellFormedRequest.setListConfig (h : Hdr) (list : Nat) (guard : Option Nat) (promptGo : Option Bool) : Statement (.setListConfig h list guard promptGo) := ofHeader rfl rfl
theorem WellFormedRequest.readList (h : Hdr) (list : Nat) : Statement (.readList h list) := ofHeader rfl rfl
theorem WellFormedRequest.go (h : Hdr) (list : Nat) : Statement (.go h list) := ofHeader rfl rfl
theorem WellFormedRequest.setCondition (h : Hdr) (cond : Nat) (value : Bool) : Statement (.setCondition h cond value) := ofHeader rfl rfl
theorem WellFormedRequest.setConditionPreset (h : Hdr) (cond : Nat) (value : Bool) : Statement (.setConditionPreset h cond value) := ofHeader rfl rfl
theorem WellFormedRequest.readConditions (h : Hdr) : Statement (.readConditions h) := ofHeader rfl rfl
theorem WellFormedRequest.setConditionLink (h : Hdr) (link eventId cond : Nat) (value : Bool) : Statement (.setConditionLink h link eventId cond value) := ofHeader rfl rfl
theorem WellFormedRequest.postClip (h : Hdr) (c : ClipArgs) : Statement (.postClip h c) := ofHeader rfl rfl
theorem WellFormedRequest.retireClip (h : Hdr) (id : Nat) : Statement (.retireClip h id) := ofHeader rfl rfl
theorem WellFormedRequest.readClip (h : Hdr) (id : Nat) : Statement (.readClip h id) := ofHeader rfl rfl
theorem WellFormedRequest.writeSamples (h : Hdr) (addr : Nat) (words : List Sample) : Statement (.writeSamples h addr words) := ofHeader rfl rfl
theorem WellFormedRequest.transferComplete : Statement .transferComplete := ofNone rfl rfl
theorem WellFormedRequest.setPauseRamp (h : Hdr) (ramp : Nat) : Statement (.setPauseRamp h ramp) := ofHeader rfl rfl
theorem WellFormedRequest.readVoice (h : Hdr) (voice : Nat) : Statement (.readVoice h voice) := ofHeader rfl rfl
theorem WellFormedRequest.voiceStart (voice : Nat) : Statement (.voiceStart voice) := ofNone rfl rfl
theorem WellFormedRequest.voiceEnd (voice : Nat) : Statement (.voiceEnd voice) := ofNone rfl rfl
theorem WellFormedRequest.voiceFadeComplete (voice : Nat) : Statement (.voiceFadeComplete voice) := ofNone rfl rfl
theorem WellFormedRequest.pauseRampEnd (voice : Nat) : Statement (.pauseRampEnd voice) := ofNone rfl rfl
theorem WellFormedRequest.pauseRampUpEnd (voice : Nat) : Statement (.pauseRampUpEnd voice) := ofNone rfl rfl
theorem WellFormedRequest.samplePeriod (lanes : List Sample) : Statement (.samplePeriod lanes) := ofNone rfl rfl
theorem WellFormedRequest.frameBoundary : Statement .frameBoundary := ofNone rfl rfl
theorem WellFormedRequest.baseFadeComplete (handle : Nat) : Statement (.baseFadeComplete handle) := ofNone rfl rfl
theorem WellFormedRequest.duckFadeComplete (handle : Nat) : Statement (.duckFadeComplete handle) := ofNone rfl rfl
theorem WellFormedRequest.windowExpiry (batch : Nat) : Statement (.windowExpiry batch) := ofNone rfl rfl
theorem WellFormedRequest.batchComplete (batch : Nat) : Statement (.batchComplete batch) := ofNone rfl rfl
theorem WellFormedRequest.triggerDue (list : Nat) : Statement (.triggerDue list) := ofNone rfl rfl
theorem WellFormedRequest.meterWindow : Statement .meterWindow := ofNone rfl rfl
theorem WellFormedRequest.timerPeriod (timer : Nat) : Statement (.timerPeriod timer) := ofNone rfl rfl
theorem WellFormedRequest.callExpired (slot : Nat) : Statement (.callExpired slot) := ofNone rfl rfl
theorem WellFormedRequest.contactChange (line : Nat) (level : Bool) : Statement (.contactChange line level) := ofNone rfl rfl
theorem WellFormedRequest.contactSettle (line : Nat) : Statement (.contactSettle line) := ofNone rfl rfl
theorem WellFormedRequest.keyChange (level : Bool) : Statement (.keyChange level) := ofNone rfl rfl
theorem WellFormedRequest.setMixConfig (h : Hdr) (m : MixArgs) : Statement (.setMixConfig h m) := ofHeader rfl rfl
theorem WellFormedRequest.setFoldbackBase (h : Hdr) (f : FbArgs) : Statement (.setFoldbackBase h f) := ofHeader rfl rfl
theorem WellFormedRequest.setFoldbackBaseRemove (h : Hdr) (f : FbArgs) : Statement (.setFoldbackBaseRemove h f) := ofHeader rfl rfl
theorem WellFormedRequest.readMix (h : Hdr) (mix : Nat) : Statement (.readMix h mix) := ofHeader rfl rfl
theorem WellFormedRequest.enrolPanel (h : Hdr) (addr : Nat) (mix : Option Nat) : Statement (.enrolPanel h addr mix) := ofHeader rfl rfl
theorem WellFormedRequest.withdrawPanel (h : Hdr) (addr : Nat) : Statement (.withdrawPanel h addr) := ofHeader rfl rfl
theorem WellFormedRequest.readPanels (h : Hdr) : Statement (.readPanels h) := ofHeader rfl rfl
theorem WellFormedRequest.pollSlot : Statement .pollSlot := ofNone rfl rfl
theorem WellFormedRequest.pollUnanswered (addr : Nat) : Statement (.pollUnanswered addr) := ofNone rfl rfl
theorem WellFormedRequest.panelLost (addr : Nat) : Statement (.panelLost addr) := ofNone rfl rfl
theorem WellFormedRequest.panelAnswer (bytes : List Byte) : Statement (.panelAnswer bytes) := ofNone rfl rfl
theorem WellFormedRequest.ident (addr seq unit rev : Nat) : Statement (.ident addr seq unit rev) := ofNone rfl rfl
theorem WellFormedRequest.nudge (addr seq mix src : Nat) (step : Int) : Statement (.nudge addr seq mix src step) := ofNone rfl rfl
theorem WellFormedRequest.setTrim (addr seq mix src : Nat) (trim : Int) : Statement (.setTrim addr seq mix src trim) := ofNone rfl rfl
theorem WellFormedRequest.mute (addr seq mix src : Nat) (on : Bool) : Statement (.mute addr seq mix src on) := ofNone rfl rfl
theorem WellFormedRequest.recall (addr seq mix : Nat) : Statement (.recall addr seq mix) := ofNone rfl rfl
theorem WellFormedRequest.readMixPanel (addr seq mix : Nat) : Statement (.readMixPanel addr seq mix) := ofNone rfl rfl
theorem WellFormedRequest.setZoneConfig (h : Hdr) (z : ZoneArgs) : Statement (.setZoneConfig h z) := ofHeader rfl rfl
theorem WellFormedRequest.readZone (h : Hdr) (zone : Nat) : Statement (.readZone h zone) := ofHeader rfl rfl
theorem WellFormedRequest.placeCall (h : Hdr) (c : CallArgs) : Statement (.placeCall h c) := ofHeader rfl rfl
theorem WellFormedRequest.releaseCall (h : Hdr) (id seq : Nat) : Statement (.releaseCall h id seq) := ofHeader rfl rfl
theorem WellFormedRequest.cancelCall (h : Hdr) (id seq : Nat) : Statement (.cancelCall h id seq) := ofHeader rfl rfl
theorem WellFormedRequest.readCall (h : Hdr) (id : Nat) : Statement (.readCall h id) := ofHeader rfl rfl
theorem WellFormedRequest.readQueue (h : Hdr) : Statement (.readQueue h) := ofHeader rfl rfl
theorem WellFormedRequest.setCallPreset (h : Hdr) (p : PresetArgs) : Statement (.setCallPreset h p) := ofHeader rfl rfl
theorem WellFormedRequest.readCallPreset (h : Hdr) (preset : Nat) : Statement (.readCallPreset h preset) := ofHeader rfl rfl
theorem WellFormedRequest.setLink (h : Hdr) (slot eventId : Nat) : Statement (.setLink h slot eventId) := ofHeader rfl rfl
theorem WellFormedRequest.readLinks (h : Hdr) : Statement (.readLinks h) := ofHeader rfl rfl
theorem WellFormedRequest.raiseEvent (h : Hdr) (host : Nat) : Statement (.raiseEvent h host) := ofHeader rfl rfl
theorem WellFormedRequest.goLink (list : Nat) : Statement (.goLink list) := ofNone rfl rfl
theorem WellFormedRequest.eventTriggerArrival (list : Nat) : Statement (.eventTriggerArrival list) := ofNone rfl rfl
theorem WellFormedRequest.outputFunction (fn : Nat) : Statement (.outputFunction fn) := ofNone rfl rfl
theorem WellFormedRequest.watchEvaluation (watch : Nat) : Statement (.watchEvaluation watch) := ofNone rfl rfl
theorem WellFormedRequest.presetPlaceLink (preset : Nat) : Statement (.presetPlaceLink preset) := ofNone rfl rfl
theorem WellFormedRequest.presetReleaseLink (preset : Nat) : Statement (.presetReleaseLink preset) := ofNone rfl rfl
theorem WellFormedRequest.conditionLink (link : Nat) : Statement (.conditionLink link) := ofNone rfl rfl
theorem WellFormedRequest.stopLink : Statement .stopLink := ofNone rfl rfl
theorem WellFormedRequest.resumeLink : Statement .resumeLink := ofNone rfl rfl
theorem WellFormedRequest.setContactInput (h : Hdr) (c : InputArgs) : Statement (.setContactInput h c) := ofHeader rfl rfl
theorem WellFormedRequest.readContacts (h : Hdr) : Statement (.readContacts h) := ofHeader rfl rfl
theorem WellFormedRequest.setContactOutputs (h : Hdr) (mask levels : BitVec 16) : Statement (.setContactOutputs h mask levels) := ofHeader rfl rfl
theorem WellFormedRequest.setOutputOwner (h : Hdr) (mask : BitVec 16) (owner : Nat) : Statement (.setOutputOwner h mask owner) := ofHeader rfl rfl
theorem WellFormedRequest.setOutputFunction (h : Hdr) (fn : Nat) (trigger : Option Nat) (setMask clearMask : Option (BitVec 16)) : Statement (.setOutputFunction h fn trigger setMask clearMask) := ofHeader rfl rfl
theorem WellFormedRequest.setWatch (h : Hdr) (w : WatchArgs) : Statement (.setWatch h w) := ofHeader rfl rfl
theorem WellFormedRequest.readWatch (h : Hdr) (watch : Nat) : Statement (.readWatch h watch) := ofHeader rfl rfl
theorem WellFormedRequest.lockShow (h : Hdr) : Statement (.lockShow h) := ofHeader rfl rfl
theorem WellFormedRequest.unlockShow (h : Hdr) : Statement (.unlockShow h) := ofHeader rfl rfl
theorem WellFormedRequest.setStopConfig (h : Hdr) (c : StopArgs) : Statement (.setStopConfig h c) := ofHeader rfl rfl
theorem WellFormedRequest.readShowState (h : Hdr) : Statement (.readShowState h) := ofHeader rfl rfl
theorem WellFormedRequest.showStop (h : Hdr) : Statement (.showStop h) := ofHeader rfl rfl
theorem WellFormedRequest.showResume (h : Hdr) : Statement (.showResume h) := ofHeader rfl rfl
theorem WellFormedRequest.presetShow (h : Hdr) : Statement (.presetShow h) := ofHeader rfl rfl
theorem WellFormedRequest.fetchNotices (h : Hdr) : Statement (.fetchNotices h) := ofHeader rfl rfl
theorem WellFormedRequest.readNotices (h : Hdr) : Statement (.readNotices h) := ofHeader rfl rfl
theorem WellFormedRequest.setNoticeNode (h : Hdr) (node : Nat) (enable : Option Bool) (mask : Option (BitVec 32)) : Statement (.setNoticeNode h node enable mask) := ofHeader rfl rfl
theorem WellFormedRequest.readIdentity (h : Hdr) : Statement (.readIdentity h) := ofHeader rfl rfl

end Sys2Proof.Laws
end

