-- ==== Sys2Proof/Laws/Requests.lean ====
section
/-! SUPPORT. How a request comes to act (`takeWaiting_eq`, `request_taken`, `answerWith_taken`, `answerWith_denied`), and that what each
request's own operation does leaves the queue, the ports, sample memory and the order of every collection alone (`Inner`). -/

namespace Sys2Proof.Machine

/-! ## Taking -/

/-- A state with its own port put back is the state. -/
theorem updPort_self (p : Port) (x : PortState) (s : State) (h : portOf s p = x) : updPort p (fun _ => x) s = s := by
  subst h; cases p <;> rfl

/-- Two updates of one port are one. -/
theorem updPort_updPort (p : Port) (f g : PortState → PortState) (s : State) : updPort p f (updPort p g s) = updPort p (f ∘ g) s := by
  cases p <;> rfl

/-- A request that arrives at an empty queue of a ready block leaves it empty once it is popped. -/
theorem pop_arrive {i : Instr} {p : Port} {s : State} (e : (portOf s p).requests = []) (c : canTake s p = true) :
    (portOf (arrive p i s) p).requests = [i] ∧ canTake (arrive p i s) p = true ∧
      updPort p (fun x => { x with requests := [] }) (arrive p i s) = s := by
  have r : s.ready = true := by
    unfold canTake at c
    simp only [Bool.and_eq_true] at c
    exact c.1.1
  have a : arrive p i s = updPort p (fun x => { x with requests := x.requests ++ [i] }) s := by simp [arrive, e, r]
  refine ⟨by rw [a]; simp [portOf_updPort, e], ?_, ?_⟩
  · rw [a]
    unfold canTake at c ⊢
    simpa [portOf_updPort] using c
  · rw [a, updPort_updPort]
    cases p <;> simp only [portOf] at e <;> simp [updPort, Function.comp] <;> rw [← e]

/-- R190: a request that its port takes at once. -/
theorem request_taken {i : Instr} {h : Hdr} {s t : State} (k : Taken h s t) : request i h s = .next (runRequest i t) := by
  obtain ⟨c, e, rfl⟩ := k
  obtain ⟨r, c', b⟩ := pop_arrive (i := i) e c
  simp only [request, takeWaiting, r, List.length_singleton, takeRounds, c', if_true, b]

/-- A port that may take nothing leaves its queue alone. -/
theorem takeRounds_blocked (p : Port) (n : Nat) (s : State) (h : canTake s p = false) : takeRounds p n s = s := by
  cases n with
  | zero => rfl
  | succ n => simp [takeRounds, h]

theorem takeWaiting_blocked (p : Port) (s : State) (h : canTake s p = false) : takeWaiting p s = s := takeRounds_blocked p _ s h

theorem takeWaiting_none (p : Port) (s : State) (h : (portOf s p).requests = []) : takeWaiting p s = s := by
  simp [takeWaiting, h, takeRounds]

theorem answerWith_taken {h : Hdr} {forB : Bool} {act : State → State × Answer} {s : State} (a : h.port = .a ∨ forB = true) :
    answerWith h forB act s = reply h (act s).2 (act s).1 := by
  rw [answerWith, if_neg]
  rintro ⟨b, c⟩
  rcases a with a | a
  · rw [a] at b; contradiction
  · rw [a] at c; contradiction

theorem answerWith_denied {h : Hdr} {act : State → State × Answer} {s : State} (b : h.port = .b) :
    answerWith h false act s = reply h (refuse .denied) s := by rw [answerWith, if_pos ⟨b, rfl⟩]

/-- A request refused by a check changes nothing. -/
theorem Inner.check {p : Prop} [Decidable p] {s : State} {c : Answer} {b : State × Answer} (hb : ¬p → Inner s b.1) :
    Inner s (if p then (s, c) else b).1 := by
  split
  · exact Inner.refl s
  · exact hb ‹_›

theorem Kept.check {p : Prop} [Decidable p] {s : State} {c : Answer} {b : State × Answer} (hb : ¬p → Kept s b.1) :
    Kept s (if p then (s, c) else b).1 := by
  split
  · exact Kept.refl s
  · exact hb ‹_›

theorem updPort_ordered (p : Port) (f : PortState → PortState) (s : State) (h : RecordsOrdered s) : RecordsOrdered (updPort p f s) := by
  cases p <;> exact { h with }

/-- Any change of the panel link that keeps its tables rising. -/
theorem foldback_inner (x : Foldback) (s : State) (h : s.fb.Ordered → x.Ordered := by exact fun k => { k with }) :
    Inner s { s with fb := x } :=
  ⟨rfl, rfl, rfl, rfl, rfl, rfl, fun k => { k with fb := h k.fb }⟩

/-! ## Route requests -/

theorem amendRecord_inner (h : Nat) (l : Option Level) (f : Option FadeArg) (x : Option Nat) (p : Option Bool) (s : State) :
    Inner s (amendRecord h l f x p s) := by
  unfold amendRecord
  split
  · exact Inner.refl s
  · refine Inner.trans ?_ (giveSetProt_internal _ _ _ _).inner
    have a := fun r : Route => show Inner s (if ownedByCue r.owner then adopt h .desk (reclaim h s) else reclaim h s) from by
      split
      · exact ((reclaim_internal h s).trans (adopt_internal _ _ _)).inner
      · exact (reclaim_internal h s).inner
    split
    · exact (a _).trans (setBase_internal _ _ _ _ _ _).inner
    · exact a _

theorem doPostRoute_inner (q : PostArgs) (s : State) : Inner s (doPostRoute q s).1 := by
  have absent : Inner s (postAbsent q s).1 := by
    unfold postAbsent
    split; · exact Inner.refl s
    split; · exact Inner.refl s
    split; · exact Inner.refl s
    split
    · exact (raise_internal _ _ s).inner
    · dsimp only
      exact (createRoute_internal _ s).inner
  have present : ∀ h r, Inner s (postPresent q h r s).1 := fun h r => by
    unfold postPresent
    split; · exact Inner.refl s
    split; · exact Inner.refl s
    split; · exact Inner.refl s
    dsimp only
    exact amendRecord_inner h _ _ _ _ s
  unfold doPostRoute
  split; · exact Inner.refl s
  split; · exact absent
  split; · exact absent
  exact present _ _

theorem doAmendRoute_inner (q : AmendArgs) (s : State) : Inner s (doAmendRoute q s).1 := by
  unfold doAmendRoute
  split; · exact Inner.refl s
  split; · exact Inner.refl s
  split; · exact Inner.refl s
  split; · exact Inner.refl s
  split; · exact Inner.refl s
  exact amendRecord_inner _ _ _ _ _ s

theorem doRetireRoute_inner (ref : RouteRef) (d c : Option Nat) (s : State) : Inner s (doRetireRoute ref d c s).1 := by
  unfold doRetireRoute
  split; · exact Inner.refl s
  split; · exact Inner.refl s
  split; · exact Inner.refl s
  split; · exact Inner.refl s
  split; · exact Inner.refl s
  split; · exact Inner.refl s
  exact (retireRoute_internal _ _ s).inner

theorem doRetireGroup_inner (o : Nat) (dst d c : Option Nat) (s : State) : Inner s (doRetireGroup o dst d c s).1 := by
  unfold doRetireGroup
  split; · exact Inner.refl s
  refine Inner.check (fun _ => ?_)
  refine Inner.check (fun _ => ?_)
  dsimp only
  refine Inner.check (fun _ => ?_)
  dsimp only
  have step : ∀ (a : State × Nat × Nat) (b : Nat), Internal a.1 (retireOne (hostRetirement d c) a b).1 := fun a b => by
    have h := retireRoute_internal b (hostRetirement d c) a.1
    unfold retireOne
    rcases e : retireRoute b (hostRetirement d c) a.1 with ⟨t, _ | x⟩ <;> rw [e] at h <;> exact h
  exact (Internal.foldl (fun a : State × Nat × Nat => a.1) (retireOne (hostRetirement d c)) step _ (s, 0, 0)).inner

/-! ## The requests of the other blocks -/

theorem doSetSourceTrim_inner (src : Nat) (t : Int) (s : State) : Inner s (doSetSourceTrim src t s).1 := by
  unfold doSetSourceTrim
  split
  · exact Inner.refl s
  · exact levels_inner s _ (fun h => { h with trims := Table.rising_write _ _ _ _ h.trims })

theorem doSetMaster_inner (d : Nat) (l : Level) (x : Option Nat) (s : State) : Inner s (doSetMaster d l x s).1 := by
  unfold doSetMaster
  refine Inner.check (fun _ => ?_)
  refine Inner.check (fun _ => ?_)
  dsimp only
  split
  · exact ⟨rfl, rfl, rfl, rfl, rfl, rfl, fun h => { h with
      rt := { h.rt with routes := Table.rising_mapAll (fun _ (r : Route) => if isFoldDst d ∧ r.dst = d then { r with set := _ } else r) _ h.rt.routes }
      le := { h.le with masters := Table.rising_write _ _ _ _ h.le.masters, dstSets := Table.rising_write _ _ _ _ h.le.dstSets } }⟩
  · exact levels_inner s _ (fun h => { h with masters := Table.rising_write _ _ _ _ h.masters })

theorem doSetStatusControls_inner (n : Nat) (c r : Option Nat) (m : Option (BitVec 8)) (s : State) :
    Inner s (doSetStatusControls n c r m s).1 := by
  unfold doSetStatusControls
  split; · exact Inner.refl s
  split; · exact Inner.refl s
  dsimp only
  exact (updSet_internal _ _ s).inner

theorem doClearStatus_inner (n : Nat) (m : BitVec 8) (s : State) : Inner s (doClearStatus n m s).1 := by
  unfold doClearStatus
  split; · exact Inner.refl s
  exact (clearFlags_internal _ _ s).inner

theorem putCue_kept (c : CueArgs) (s : State) : Kept s (putCue c s) :=
  ⟨rfl, rfl, fun h => { h with cq := { h.cq with cues := Table.rising_store _ _ _ h.cq.cues } }⟩

theorem createCue_kept (c : CueArgs) (s : State) : Kept s (createCue c s).1 := by
  unfold createCue
  split
  · exact Kept.refl s
  · dsimp only
    split
    · exact (putCue_kept c s).trans (makeStandby_kept _ _ _)
    · exact putCue_kept c s

theorem doPostCue_kept (c : CueArgs) (s : State) : Kept s (doPostCue c s).1 := by
  unfold doPostCue
  split; · exact Kept.refl s
  split; · exact Kept.refl s
  exact createCue_kept c s

theorem doReplaceCue_kept (c : CueArgs) (s : State) : Kept s (doReplaceCue c s).1 := by
  unfold doReplaceCue
  split; · exact Kept.refl s
  split
  · exact createCue_kept c s
  · split; · exact Kept.refl s
    split; · exact Kept.refl s
    dsimp only
    split
    · exact (putCue_kept c s).trans (makeStandby_kept _ _ _)
    · exact putCue_kept c s

theorem leaveStandby_kept (l n : Nat) (s : State) : Kept s (leaveStandby l n s) := by
  unfold leaveStandby
  split
  · exact makeStandby_kept _ _ s
  · dsimp only
    split
    · exact (releaseStandby_internal l s).toKept.trans (noStandby_kept _ _)
    · exact (releaseStandby_internal l s).toKept.trans (endList_kept _ _)

theorem doRetireCue_kept (l n : Nat) (s : State) : Kept s (doRetireCue l n s).1 := by
  unfold doRetireCue
  split; · exact Kept.refl s
  split; · exact Kept.refl s
  split; · exact Kept.refl s
  split; · exact Kept.refl s
  have h : Kept s { s with cq := { s.cq with cues := s.cq.cues.remove (cueKey l n) } } :=
    ⟨rfl, rfl, fun h => { h with cq := { h.cq with cues := Table.rising_remove _ _ h.cq.cues } }⟩
  dsimp only
  split
  · exact h.trans (leaveStandby_kept _ _ _)
  · split
    · exact h.trans (noStandby_kept _ _)
    · exact h

theorem doSetStandby_kept (l n : Nat) (s : State) : Kept s (doSetStandby l n s).1 := by
  unfold doSetStandby
  split; · exact Kept.refl s
  split; · exact Kept.refl s
  split; · exact Kept.refl s
  exact makeStandby_kept _ _ s

theorem doSetListConfig_kept (l : Nat) (g : Option Nat) (p : Option Bool) (s : State) : Kept s (doSetListConfig l g p s).1 := by
  unfold doSetListConfig
  split; · exact Kept.refl s
  dsimp only
  exact updList_kept _ _ s

theorem doGo_kept (h : Hdr) (l : Nat) (s : State) : Kept s (doGo h l s).1 := by
  have k := goByHand_kept l s
  unfold doGo
  split; · exact Kept.refl s
  split; · exact Kept.refl s
  split <;> rename_i e <;> rw [e] at k <;> exact k

theorem doSetCondition_kept (h : Hdr) (c : Nat) (v : Bool) (s : State) : Kept s (doSetCondition h c v s).1 := by
  unfold doSetCondition
  split; · exact Kept.refl s
  split; · exact Kept.refl s
  exact (writeCond_internal _ _ s).toKept

theorem doPostClip_inner (c : ClipArgs) (s : State) : Inner s (doPostClip c s).1 := by
  have h : Inner s { s with ve := { s.ve with clips := s.ve.clips.store c.id (clipRecord c) } } :=
    ⟨rfl, rfl, rfl, rfl, rfl, rfl, fun h => { h with ve := { h.ve with clips := Table.rising_store _ _ _ h.ve.clips } }⟩
  unfold doPostClip
  refine Inner.check (fun _ => ?_)
  refine Inner.check (fun _ => ?_)
  dsimp only
  split; · exact h
  split; · exact Inner.refl s
  split; · exact Inner.refl s
  split; · exact Inner.refl s
  exact h

theorem doRetireClip_inner (id : Nat) (s : State) : Inner s (doRetireClip id s).1 := by
  unfold doRetireClip
  split; · exact Inner.refl s
  split; · exact Inner.refl s
  split; · exact Inner.refl s
  split; · exact Inner.refl s
  exact ⟨rfl, rfl, rfl, rfl, rfl, rfl, fun h => { h with ve := { h.ve with clips := Table.rising_remove _ _ h.ve.clips } }⟩

theorem doSetMixConfig_inner (q : MixArgs) (s : State) : Inner s (doSetMixConfig q s).1 := by
  unfold doSetMixConfig
  split; · exact Inner.refl s
  split; · exact Inner.refl s
  split; · exact Inner.refl s
  exact (updMix_inner _ _ s).trans (Internal.forEach (fun h t => updRoute_internal h _ t) _ _).inner

theorem doSetFoldbackBase_inner (q : FbArgs) (s : State) : Inner s (doSetFoldbackBase q s).1 := by
  unfold doSetFoldbackBase
  split; · exact Inner.refl s
  split; · exact Inner.refl s
  split
  · unfold createEntry
    split; · exact Inner.refl s
    split
    · exact (raise_internal _ _ s).inner
    · dsimp only
      exact (createRoute_internal _ s).inner
  · split; · exact Inner.refl s
    exact (((reclaim_internal _ s).trans (setBase_internal _ _ _ _ _ _)).trans (updRoute_internal _ _ _)).inner

theorem doRemoveEntry_inner (q : FbArgs) (s : State) : Inner s (doRemoveEntry q s).1 := by
  unfold doRemoveEntry
  split; · exact Inner.refl s
  split; · exact Inner.refl s
  split; · exact Inner.refl s
  split; · exact Inner.refl s
  exact (retireRoute_internal _ _ s).inner

theorem doEnrolPanel_inner (a : Nat) (m : Option Nat) (s : State) : Inner s (doEnrolPanel a m s).1 := by
  unfold doEnrolPanel
  split; · exact Inner.refl s
  split; · exact Inner.refl s
  exact updPanel_inner _ _ s

theorem doWithdrawPanel_inner (a : Nat) (s : State) : Inner s (doWithdrawPanel a s).1 := by
  unfold doWithdrawPanel
  split; · exact Inner.refl s
  dsimp only
  refine Inner.trans ?_ (updPanel_inner _ _ _)
  exact foldback_inner _ s

/-! ## Zones and calls -/

theorem enableZone_internal (z : Nat) (f : Option (Nat × Curve)) (s : State) : Internal s (enableZone z f s) := by
  unfold enableZone
  dsimp only
  split
  · exact ((reclaim_internal _ s).trans (setBase_internal _ _ _ _ _ _)).trans (updRoute_internal _ _ _)
  · exact (createRoute_internal _ s).trans (updRoute_internal _ _ _)

theorem disableZone_internal (z : Nat) (s : State) : Internal s (disableZone z s) := by
  unfold disableZone
  split
  · exact Internal.refl s
  · split
    · exact retireRoute_internal _ _ s
    · exact Internal.refl s

theorem moveRelay_internal (z : Nat) (f : Option (Nat × Curve)) (s : State) : Internal s (moveRelay z f s) := by
  unfold moveRelay
  split
  · exact Internal.refl s
  · exact setBase_internal _ _ _ _ _ s

theorem moveCalls_internal (z : Nat) (s : State) : Internal s (moveCalls z s) :=
  Internal.forEach (fun h t => setBase_internal h _ _ _ _ t) _ s

theorem moveSet_internal (z : Nat) (s : State) : Internal s (moveSet z s) := by
  unfold moveSet
  exact routes_internal s _ (fun h => { h with
    routes := Table.rising_mapAll (fun _ (r : Route) => if r.dst = 56 + z then { r with set := (zoneOf s z).set } else r) _ h.routes })

theorem moveLamp_internal (old : Option Nat) (s : State) : Internal s (moveLamp old s) := by
  unfold moveLamp
  refine Internal.trans ?_ (refreshLamps_internal _)
  split
  · split
    · exact Internal.refl s
    · exact updOutput_internal _ _ s
  · exact Internal.refl s

theorem Internal.ite {p : Prop} [Decidable p] {s t u : State} (h : Internal s t) (k : Internal t u) : Internal s (if p then u else t) := by
  split
  · exact h.trans k
  · exact h

theorem configureZone_internal (q : ZoneArgs) (s : State) : Internal s (configureZone q s) := by
  unfold configureZone
  dsimp only
  refine Internal.ite ?_ (moveLamp_internal _ _)
  refine Internal.ite ?_ (moveSet_internal _ _)
  refine Internal.ite ?_ (moveCalls_internal _ _)
  refine (updZone_internal q.zone (zoneWith q) s).trans ?_
  split
  · exact enableZone_internal _ _ _
  · split
    · exact disableZone_internal _ _
    · split
      · exact moveRelay_internal _ _ _
      · exact Internal.refl _

theorem doSetZoneConfig_internal (q : ZoneArgs) (s : State) : Internal s (doSetZoneConfig q s).1 := by
  unfold doSetZoneConfig
  split; · exact Internal.refl s
  split; · exact Internal.refl s
  split; · exact raise_internal _ _ s
  exact configureZone_internal q s

theorem doPlaceCall_listsKept (h : Hdr) (c : CallArgs) (s : State) : ListsKept s (doPlaceCall h c s).1 := by
  unfold doPlaceCall
  split; · exact ListsKept.refl s
  dsimp only
  split; · exact ListsKept.refl s
  split; · exact ListsKept.refl s
  exact (enqueueCall_listsKept _ _ _ _ _ _ s).trans (scan_internal _).toListsKept

theorem dropCall_listsKept (id : Nat) (c : Call) (s : State) : ListsKept s (dropCall id c s) := by
  unfold dropCall
  split
  · exact endCall_listsKept id s
  · exact removeCall_listsKept id s

theorem doReleaseCall_listsKept (id seq : Nat) (s : State) : ListsKept s (doReleaseCall id seq s).1 := by
  unfold doReleaseCall
  split; · exact ListsKept.refl s
  split; · exact ListsKept.refl s
  exact dropCall_listsKept _ _ s

theorem doCancelCall_listsKept (id seq : Nat) (s : State) : ListsKept s (doCancelCall id seq s).1 := by
  unfold doCancelCall
  split; · exact ListsKept.refl s
  split; · exact ListsKept.refl s
  exact removeCall_listsKept _ s

theorem doSetCallPreset_listsKept (q : PresetArgs) (s : State) : ListsKept s (doSetCallPreset q s).1 := by
  unfold doSetCallPreset
  split; · exact ListsKept.refl s
  split; · exact ListsKept.refl s
  exact updCallPreset_listsKept _ _ s

theorem placeLink_listsKept (p : Nat) (s : State) : ListsKept s (placeLink p s) := by
  unfold placeLink
  split
  · exact ListsKept.refl s
  · exact placePreset_listsKept _ _ s

theorem releaseLink_listsKept (p : Nat) (s : State) : ListsKept s (releaseLink p s) := by
  unfold releaseLink
  split
  · exact ListsKept.refl s
  · split
    · exact ListsKept.refl s
    · split
      · exact ListsKept.refl s
      · exact dropCall_listsKept _ _ s

/-! ## The event fabric -/

theorem doSetLink_inner (n e : Nat) (s : State) : Inner s (doSetLink n e s).1 := by
  unfold doSetLink
  split; · exact Inner.refl s
  split; · exact ⟨rfl, rfl, rfl, rfl, rfl, rfl, fun h => { h with ef := { h.ef with goLinks := Table.rising_write _ _ _ _ h.ef.goLinks } }⟩
  split; · exact ⟨rfl, rfl, rfl, rfl, rfl, rfl, fun h => { h with ef := { h.ef with } }⟩
  split; · exact ⟨rfl, rfl, rfl, rfl, rfl, rfl, fun h => { h with ef := { h.ef with } }⟩
  exact Inner.refl s

theorem doRaiseEvent_internal (h : Hdr) (e : Nat) (s : State) : Internal s (doRaiseEvent h e s).1 := by
  unfold doRaiseEvent
  split; · exact Internal.refl s
  split; · exact Internal.refl s
  exact emit_internal _ s

theorem doSetContactInput_inner (q : InputArgs) (s : State) : Inner s (doSetContactInput q s).1 := by
  unfold doSetContactInput
  refine Inner.check (fun _ => ?_)
  split; · exact Inner.refl s
  exact updInput_inner _ _ s

theorem doSetContactOutputs_internal (m v : BitVec 16) (s : State) : Internal s (doSetContactOutputs m v s).1 := by
  unfold doSetContactOutputs
  exact Internal.forEach (fun l t => by split; exacts [updOutput_internal _ _ t, Internal.refl t]) _ s

theorem doSetOutputOwner_internal (m : BitVec 16) (o : Nat) (s : State) : Internal s (doSetOutputOwner m o s).1 := by
  unfold doSetOutputOwner
  split; · exact Internal.refl s
  split; · exact Internal.refl s
  exact Internal.forEach (fun l t => updOutput_internal _ _ t) _ s

theorem evaluateWatch_inner (w : Nat) (s : State) : Inner s (evaluateWatch w s) := by
  unfold evaluateWatch
  dsimp only
  split
  · exact Inner.refl s
  · refine Inner.trans ?_ (updWatch_inner _ _ _)
    refine (Internal.ite ?_ (emit_internal _ _)).inner
    split
    · exact writePair_internal _ _ _ s
    · exact Internal.refl s

/-! ## Stop, resume, preset -/

theorem doLockShow_inner (s : State) : Inner s (doLockShow s).1 := by
  unfold doLockShow
  split
  · exact Inner.refl s
  · exact (showState_inner _ s).trans (emit_internal _ _).inner

theorem doUnlockShow_inner (s : State) : Inner s (doUnlockShow s).1 := by
  unfold doUnlockShow
  split; · exact Inner.refl s
  split; · exact Inner.refl s
  exact (showState_inner _ s).trans (emit_internal _ _).inner

theorem stopRoute_internal (s : State) (t : Nat × Int × Nat) : Internal s (stopRoute s t) := by
  have h := createRoute_internal ⟨s.ss.stopSource, t.1, .showstop, .step t.2.1, none, .relay, none, t.2.2, false⟩ s
  unfold stopRoute
  exact h

theorem stopRoutes_internal (l : List (Nat × Int × Nat)) (s : State) : Internal s (l.foldl stopRoute s) :=
  Internal.foldl (fun a => a) stopRoute stopRoute_internal l s

theorem relayStop_listsKept (c : CallOrigin) (s : State) : ListsKept s (relayStop c s) := by
  unfold relayStop
  dsimp only
  refine ListsKept.trans ?_ (emitStarts_internal _ _).toListsKept
  refine ListsKept.trans ?_ (refreshLamps_internal _).toListsKept
  refine ListsKept.trans ?_ (Internal.forEach (fun z t => duckTo_internal _ _ _ t) _ _).toListsKept
  refine ListsKept.trans ?_ (Internal.forEach (fun z t => updZone_internal _ _ t) _ _).toListsKept
  refine (preemptAll_internal (s.rl.calls.keys (·.active)) s).toListsKept.trans ?_
  exact relay_listsKept _ _ (fun h => { h with calls := Table.rising_store _ _ _ h.calls })

theorem holdAll_inner (s : State) : Inner s { s with
    ve := { s.ve with voices := s.ve.voices.mapWrite Voice.init (fun _ => pauseVoice s.ve.pauseRamp) }
    ru := { s.ru with batches := s.ru.batches.mapAll (fun _ => suspendBatch) }
    cq := { s.cq with lists := s.cq.lists.mapWrite CueList.init (fun _ => holdTrigger) } } :=
  ⟨rfl, rfl, rfl, rfl, rfl, rfl, fun h => { h with
    ru := Table.rising_mapAll (fun _ => suspendBatch) _ h.ru
    cq := { h.cq with lists := Table.rising_mapWrite CueList.init (fun _ => holdTrigger) _ h.cq.lists }
    ve := { h.ve with voices := Table.rising_mapWrite Voice.init (fun _ => pauseVoice s.ve.pauseRamp) _ h.ve.voices } }⟩

theorem resumeAll_inner (s : State) : Inner s { s with
    ve := { s.ve with voices := s.ve.voices.mapWrite Voice.init (fun _ => unpauseVoice) }
    ru := { s.ru with batches := s.ru.batches.mapAll (fun _ b => { b with suspended := false }) } } :=
  ⟨rfl, rfl, rfl, rfl, rfl, rfl, fun h => { h with
    ru := Table.rising_mapAll (fun _ (b : Batch) => { b with suspended := false }) _ h.ru
    ve := { h.ve with voices := Table.rising_mapWrite Voice.init (fun _ => unpauseVoice) _ h.ve.voices } }⟩

theorem takeStop_inner (c : CallOrigin) (s : State) : Inner s (takeStop c s) := by
  unfold takeStop
  dsimp only
  refine Inner.trans ?_ (raise_internal _ _ _).inner
  refine Inner.trans ?_ (emit_internal _ _).inner
  refine Inner.trans ?_ (holdAll_inner _)
  refine Inner.trans ?_ (relayStop_listsKept c _).inner
  exact (showState_inner { s.ss with stopped := true, stopCause := some c } s).trans (stopRoutes_internal _ _).inner

theorem relayResume_listsKept (s : State) : ListsKept s (relayResume s) := by
  unfold relayResume
  dsimp only
  refine ListsKept.trans ?_ (scan_internal _).toListsKept
  refine ListsKept.trans ?_ (emitFreed_internal _ _).toListsKept
  refine ListsKept.trans ?_ (refreshLamps_internal _).toListsKept
  exact (removeCall_listsKept 16 s).trans (freeZones_internal _ _).toListsKept

theorem takeResume_inner (s : State) : Inner s (takeResume s) := by
  unfold takeResume
  dsimp only
  refine Inner.trans ?_ (emit_internal _ _).inner
  refine Inner.trans ?_ (Internal.forEach (fun n t => makeRequest_internal n t) _ _).inner
  refine Inner.trans ?_ (resumeAll_inner _)
  refine Inner.trans ?_ (relayResume_listsKept _).inner
  exact (showState_inner { s.ss with stopped := false, stopCause := none } s).trans (releaseWhere_internal _ _).inner

theorem presetVoices_inner (s : State) : Inner s (presetVoices s) := by
  refine ⟨rfl, rfl, rfl, rfl, rfl, ?_, fun h => { h with
    ve := { h.ve with voices := Table.rising_mapWrite Voice.init (fun _ => presetVoice) _ h.ve.voices }, smp := { h.smp with requests := rfl } }⟩
  unfold presetVoices writesInFlight
  dsimp only
  rcases s.smp.transfer with _ | ⟨_, _, _, _, _⟩ | _ <;> rfl

theorem presetStandby_kept (l : Nat) (s : State) : Kept s (presetStandby l s) := by
  unfold presetStandby
  split
  · exact Kept.refl s
  · exact takeStandby_kept _ _ s

theorem freedGens_rising (l : List Nat) (t : Table Nat) (h : t.rising = true) :
    (l.foldl (fun g n => g.write 0 n ((g.read 0 n + 1) % 65536)) t).rising = true :=
  foldl_rising (fun g n => g.write 0 n ((g.read 0 n + 1) % 65536)) (fun _ _ => Table.rising_write _ _ _ _) l t h

theorem presetRoutes_inner (s : State) : Inner s (presetRoutes s) :=
  ⟨rfl, rfl, rfl, rfl, rfl, rfl, fun h => { h with
    rt := ⟨Table.rising_mapAll (fun _ => presetRoute) _ (Table.rising_filter _ _ h.rt.routes), freedGens_rising _ _ h.rt.gens⟩, ru := rfl }⟩

theorem presetRelay_inner (s : State) : Inner s (presetRelay s) := by
  unfold presetRelay
  refine Inner.trans ?_ (refreshLamps_internal _).inner
  exact ⟨rfl, rfl, rfl, rfl, rfl, rfl, fun h => { h with rl := {
    zones := Table.rising_mapWrite Zone.init (fun _ (z : Zone) => { z with holder := none }) _ h.rl.zones, calls := rfl
    presets := Table.rising_mapWrite CallPreset.init (fun _ (p : CallPreset) => { p with placed := none }) _ h.rl.presets } }⟩

theorem presetFabric_inner (s : State) : Inner s (presetFabric s) :=
  ⟨rfl, rfl, rfl, rfl, rfl, rfl, fun h => { h with ef := { h.ef with
    watches := Table.rising_mapWrite Watch.init (fun _ (w : Watch) => { w with last := none }) _ h.ef.watches
    outputs := Table.rising_mapWrite ContactOut.init
      (fun l (o : ContactOut) => if o.fnOwned && !isLamp s l then { o with high := false } else o) _ h.ef.outputs } }⟩

theorem takePreset_inner (s : State) : Inner s (takePreset s) := by
  unfold takePreset
  dsimp only
  refine Inner.trans ?_ (Kept.forEach (fun l t => presetStandby_kept l t) _ _).inner
  refine Inner.trans ?_ (presetFabric_inner _)
  refine Inner.trans ?_ (presetRelay_inner _)
  refine Inner.trans ?_ (presetVoices_inner _)
  refine Inner.trans ?_ (presetRoutes_inner _)
  exact ⟨rfl, rfl, rfl, rfl, rfl, rfl, fun h => { h with
    le := { h.le with sets := Table.rising_mapWrite StatusSet.init (fun _ (x : StatusSet) => { x with flags := Flags.none }) _ h.le.sets }
    cf := { h.cf with values := h.cf.presets }
    cq := ⟨Table.rising_mapAll (fun _ (x : Cue) => { x with outcome := none }) _ h.cq.cues,
      Table.rising_mapWrite CueList.init (fun _ => presetList) _ h.cq.lists⟩ }⟩

/-! ## The panel link -/


theorem recallMix_internal (m : Nat) (s : State) : Internal s (recallMix m s).1 :=
  Internal.forEach (fun h t => updRoute_internal h _ t) _ s

theorem boundRequest_internal (a own : Nat) (q : PanelReq) (s : State) : Internal s (boundRequest a own q s).1 := by
  unfold boundRequest
  dsimp only
  split
  all_goals first
    | exact Internal.refl s
    | (split
       · exact raise_internal _ _ s
       · first
         | exact recallMix_internal _ s
         | exact Internal.refl s
         | (split
            · exact Internal.refl s
            · first | exact updRoute_internal _ _ s))

theorem panelTake_inner (a : Nat) (q : PanelReq) (s : State) : Inner s (panelTake a q s).1 := by
  unfold panelTake
  split
  · exact Inner.refl s
  · split
    · dsimp only
      exact updPanel_inner _ _ s
    · exact Inner.refl s
    · exact (boundRequest_internal _ _ _ s).inner

theorem panelPresent_inner (a : Nat) (s : State) : Inner s (panelPresent a s) := by
  unfold panelPresent
  dsimp only
  split
  · exact (updPanel_inner _ _ s).trans (raise_internal _ _ _).inner
  · exact updPanel_inner _ _ s

theorem panelSequence_inner (a : Nat) (r : Nat × PanelReq) (s : State) : Inner s (panelSequence a r s) := by
  unfold panelSequence
  split
  · exact Inner.refl s
  · exact (panelTake_inner _ _ s).trans (updPanel_inner _ _ _)

theorem takeAnswer_inner (a : Nat) (r : Option (Nat × PanelReq)) (s : State) : Inner s (takeAnswer a r s) := by
  unfold takeAnswer
  split
  · have h := (foldback_inner { s.fb with polling := none } s).trans (panelPresent_inner a _)
    dsimp only
    split
    · exact h
    · exact h.trans (panelSequence_inner _ _ _)
  · exact Inner.refl s

theorem losePanel_inner (a : Nat) (s : State) : Inner s (losePanel a s) := by
  unfold losePanel
  have h := (updPanel_inner a (fun p => { p with presence := .lost, misses := 8 }) s).trans (raise_internal .panelLost (.num a) _).inner
  dsimp only
  split
  · exact h
  · split
    · exact h.trans (Internal.forEach (fun x t => updRoute_internal x _ t) _ _).inner
    · exact h

theorem missPoll_inner (a : Nat) (s : State) : Inner s (missPoll a s) := by
  unfold missPoll
  split
  · have h := foldback_inner { s.fb with polling := none } s
    dsimp only
    split
    · split
      · exact h.trans (losePanel_inner _ _)
      · exact h.trans (updPanel_inner _ _ _)
    · exact h
  · exact Inner.refl s

theorem eighthMiss_inner (a : Nat) (s : State) : Inner s (eighthMiss a s) := by
  unfold eighthMiss
  dsimp only
  split
  · exact missPoll_inner a s
  · exact Inner.refl s

theorem pollNext_inner (s : State) : Inner s (pollNext s) := by
  unfold pollNext
  split <;> exact foldback_inner _ s

/-! ## A transfer of a voice -/

theorem fetchEnds_internal (n start count : Nat) (cap : Option Nat) (stale : Bool) (s : State)
    (h : s.smp.transfer = some (.fetch n start count cap stale)) : Internal s (completeTransfer s) := by
  have a : Internal s { s with smp := { s.smp with transfer := none } } :=
    arbiter_internal s s.smp.requests s.smp.write none s.smp.pointers (by simp [writesInFlight, h])
  unfold completeTransfer
  simp only [h]
  split
  · exact (a.trans (makeRequest_internal _ _)).trans (grant_internal _)
  · exact (((a.trans (updVoice_internal _ _ _)).trans (completePreload_internal _ _)).trans (makeRequest_internal _ _)).trans
      (grant_internal _)

end Sys2Proof.Machine
end

