-- ==== Sys2Proof/Laws/Sound.lean ====
section
/-! SUPPORT. Every invariant of `Sound` follows from finitely many checks over the records a state lists: unlisted records stand as after reset,
and meet them. -/

namespace Sys2Proof.Machine

variable {α : Type}

theorem Table.mem_of_find {t : Table α} {k : Nat} {v : α} (h : Table.find t k = some v) : (k, v) ∈ t := by
  induction t with
  | nil => simp at h
  | cons p t ih =>
    rw [Table.find_cons] at h
    split at h
    · rename_i e; cases h; subst e; exact List.mem_cons_self
    · exact List.mem_cons_of_mem _ (ih h)

theorem Table.mem_of_read {d : α} {t : Table α} {k : Nat} (h : Table.read d t k ≠ d) : (k, Table.read d t k) ∈ t := by
  cases e : Table.find t k with
  | none => simp [Table.read, e] at h
  | some v => simpa [Table.read, e] using Table.mem_of_find e

/-- What holds of every listed record, and of the unlisted ones, holds of every read. -/
theorem Table.of_reads {d : α} {t : Table α} {P : Nat → α → Prop} (h : ∀ p ∈ t, P p.1 p.2) (hd : ∀ k, P k d) (k : Nat) :
    P k (Table.read d t k) := by
  by_cases e : Table.read d t k = d
  · rw [e]; exact hd k
  · exact h _ (Table.mem_of_read e)

/-! ## The checks -/

def orderedCheck (s : State) : Bool :=
  s.rt.routes.rising && s.rt.gens.rising && s.le.trims.rising && s.le.masters.rising && s.le.dstSets.rising && s.le.sets.rising &&
  s.le.meters.rising && s.le.peaks.rising && s.le.crosspoints.rising && s.le.overDsts.rising && s.ru.batches.rising && s.cq.cues.rising &&
  s.cq.lists.rising && s.cf.values.rising && s.cf.presets.rising && s.cf.links.rising && s.ve.clips.rising && s.ve.voices.rising &&
  s.smp.requests.rising && s.smp.pointers.rising && s.fb.mixes.rising && s.fb.panels.rising && s.rl.zones.rising && s.rl.calls.rising &&
  s.rl.presets.rising && s.ef.goLinks.rising && s.ef.fns.rising && s.ef.inputs.rising && s.ef.outputs.rising && s.ef.timers.rising &&
  s.ef.watches.rising && s.nt.kinds.rising && s.nt.nodes.rising

abbrev OwnersListed (s : State) : Prop :=
  (∀ p ∈ s.rt.routes, mayHold p.2.owner p.2.dst = true) ∧ (∀ p ∈ s.rl.calls, placedKind p.2.kind = true ∧ ∀ z ∈ p.2.zones, z < 15) ∧
  (∀ p ∈ s.rl.presets, placedKind p.2.kind = true ∧ p.2.priority ≤ 2) ∧ ∀ p ∈ s.cq.cues, badActions p.2.actions = false

abbrev CapacityListed (s : State) : Prop :=
  (∀ p ∈ s.rt.routes, p.1 < 1024) ∧ s.rt.routes.length ≤ 64 ∧ isAnnounce s.ss.stopSource = true ∧
  (∀ p ∈ s.rt.routes, ∀ q ∈ s.rt.routes, p.2.owner = .showstop → q.2.owner = .showstop → p.2.dst = q.2.dst → p = q) ∧
  (∀ p ∈ s.rt.routes, p.2.owner = .showstop ↔ p.2.src = s.ss.stopSource) ∧ ∀ p ∈ s.rt.routes, p.2.owner = .showstop → s.ss.stopped = true

abbrev KeysListed (s : State) : Prop :=
  (∀ p ∈ s.rt.routes, ∀ q ∈ s.rt.routes, p.2.src = q.2.src → p.2.dst = q.2.dst → p = q) ∧
  (∀ p ∈ s.rt.routes, isVoice p.2.src = true → (voiceOf s (p.2.src - 64)).state ≠ .free) ∧
  (∀ p ∈ s.rt.routes, p.2.owner = .relay → p.2.src ≠ pgmt → 56 ≤ p.2.dst ∧ ∃ c ∈ (zoneOf s (p.2.dst - 56)).holder, ∃ x ∈ callOf s c,
    x.active = true ∧ callSource x = p.2.src ∧ p.2.dst - 56 ∈ x.routes) ∧
  ∀ p ∈ s.rl.calls, ∀ z ∈ p.2.routes, z ∈ p.2.zones ∧
    ∃ q ∈ s.rt.routes, q.2.owner = .relay ∧ q.2.src = callSource p.2 ∧ q.2.dst = 56 + z

abbrev BatchesListed (s : State) : Prop :=
  (∀ p ∈ s.ru.batches, p.1 < 8 ∧ 1 ≤ p.2.members.length ∧ p.2.members.length ≤ 256 ∧ (p.2.members.map (·.handle)).Nodup ∧
    ∀ m ∈ p.2.members, ∃ r ∈ routeAt s m.handle, r.state = .retiring ∧ r.batch = some p.1) ∧
  (∀ p ∈ s.rt.routes, ∀ k ∈ p.2.batch, p.2.state = .retiring ∧ p.2.fade = none ∧ ∃ b ∈ s.ru.batches.find k, p.1 ∈ b.members.map (·.handle)) ∧
  (∀ p ∈ s.rt.routes, p.2.owner = .relay → p.2.state = .retiring → p.2.src = pgmt ∧ 56 ≤ p.2.dst ∧ (zoneOf s (p.2.dst - 56)).enabled = false) ∧
  ∀ p ∈ s.rt.routes, p.2.state = .retiring → p.2.batch = none → ∃ f ∈ p.2.fade, f.b = .off

abbrev HoldersListed (s : State) : Prop :=
  (∀ p ∈ s.rl.zones, ∀ c ∈ p.2.holder, ∃ x ∈ callOf s c, x.active = true ∧ p.1 ∈ x.zones) ∧
  (∀ p ∈ s.rl.calls, (p.2.active = true → ∀ z ∈ p.2.zones, (zoneOf s z).holder = some p.1) ∧ p.2.zones ≠ [] ∧ p.2.zones.Nodup ∧
    (p.2.active = true → p.2.voice.isSome = isRecorded p.2) ∧ (p.2.active = false → p.2.routes = [] ∧ p.2.voice = none ∧ p.2.started = false) ∧
    ((p.1 < 16 ∧ p.2.priority ≤ 2 ∧ p.2.seq.isSome = true) ∨ (p.1 = 16 ∧ p.2.priority = 3 ∧ p.2.seq = none ∧ p.2.active = true ∧
      p.2.kind = .live s.ss.stopSource ∧ p.2.zones = List.range 15 ∧ p.2.routes = [])) ∧
    (p.1 < 16 → p.1 ∈ s.rl.order)) ∧
  s.rl.order.Nodup ∧ (∀ c ∈ s.rl.order, c < 16 ∧ (callOf s c).isSome = true) ∧ (callOf s 16).isSome = s.ss.stopped ∧
  ∀ l, l < 16 → isLamp s l = true →
    (outputOf s l).high = (List.range 15).any (fun z => (zoneOf s z).lamp == some l && (zoneOf s z).holder.isSome)

/-- What a voice's claimant asks of the state. -/
def claimantCheck (s : State) (n : Nat) (v : Voice) : Bool :=
  match v.claimant with
  | some (.standby l k _) => (listOf s l).standby == some k && (v.state == .preloading || v.state == .primed) && !v.startDue && !v.startAligned &&
      !v.starting
  | some (.call c) => (callOf s c).any (fun x => x.active && x.voice == some n)
  | _ => true

abbrev ClaimantsListed (s : State) : Prop :=
  (∀ p ∈ s.ve.voices, (p.2.state = .free ↔ p.2.claimant = none) ∧ (p.2.state ≠ .free → p.1 < 32) ∧ claimantCheck s p.1 p.2 = true ∧
    ∀ f ∈ p.2.fade, f.b = .off → heldByTake p.2 = true) ∧
  (∀ p ∈ s.rl.calls, p.2.active = true → ∀ n ∈ p.2.voice, (voiceOf s n).claimant = some (.call p.1)) ∧
  (∀ p ∈ s.cq.lists, (∀ r ∈ p.2.running, ∀ q ∈ r.labels, (voiceOf s q.2).claimant = some (.running p.1 r.take q.1)) ∧
    ∀ k ∈ p.2.standby, k ≤ 999999 ∧ (cueOf s p.1 k).isSome = true ∧ (p.2.state = .preloading ∨ p.2.state = .primed)) ∧
  s.ve.waits.Nodup ∧ s.ve.waits.length ≤ 32 ∧
  (∀ w ∈ s.ve.waits, w.list < 4 ∧ w.label < 8 ∧ (listOf s w.list).standby = some w.number ∧
    ∀ p ∈ s.ve.voices, p.2.claimant ≠ some (.standby w.list w.number w.label)) ∧
  (s.ve.waits ≠ [] → ∀ n, n < 32 → (voiceOf s n).state ≠ .free)

abbrev PanelsListed (s : State) : Prop :=
  (∀ p ∈ s.fb.panels, (p.2.enrolled = true → 1 ≤ p.1 ∧ p.1 ≤ 32) ∧ (p.2.enrolled = false → p.2 = Panel.init) ∧ (∀ m ∈ p.2.mix, m ≤ 31) ∧
    (p.2.presence = .present → p.2.misses < 8) ∧ ∀ q ∈ s.fb.panels, ∀ m ∈ p.2.mix, q.2.mix = some m → p.1 = q.1) ∧
  ∀ a ∈ s.fb.polling, (panelOf s a).enrolled = true

/-! ## They suffice -/

theorem recordsOrdered_of_check {s : State} (h : orderedCheck s = true) : RecordsOrdered s := by
  simp only [orderedCheck, Bool.and_eq_true] at h
  obtain ⟨⟨⟨⟨⟨⟨⟨⟨⟨⟨⟨⟨⟨⟨⟨⟨⟨⟨⟨⟨⟨⟨⟨⟨⟨⟨⟨⟨⟨⟨⟨⟨a1, a2⟩, b1⟩, b2⟩, b3⟩, b4⟩, b5⟩, b6⟩, b7⟩, b8⟩, c1⟩, d1⟩, d2⟩, e1⟩, e2⟩, e3⟩, f1⟩, f2⟩, g1⟩, g2⟩,
    h1⟩, h2⟩, i1⟩, i2⟩, i3⟩, j1⟩, j2⟩, j3⟩, j4⟩, j5⟩, j6⟩, k1⟩, k2⟩ := h
  exact ⟨⟨a1, a2⟩, ⟨b1, b2, b3, b4, b5, b6, b7, b8⟩, c1, ⟨d1, d2⟩, ⟨e1, e2, e3⟩, ⟨f1, f2⟩, ⟨g1, g2⟩, ⟨h1, h2⟩, ⟨i1, i2, i3⟩,
    ⟨j1, j2, j3, j4, j5, j6⟩, ⟨k1, k2⟩⟩

theorem ownersLawful_of_listed {s : State} (h : OwnersListed s) : OwnersLawful s := ⟨h.1, h.2.1, h.2.2.1, h.2.2.2⟩

theorem capacityHeld_of_listed {s : State} (h : CapacityListed s) : CapacityHeld s where
  slots := h.1
  general := (List.length_filter_le _ _).trans (h.2.1.trans (by decide))
  perDest _ := (List.length_filter_le _ _).trans h.2.1
  reserve := (List.length_filter_le _ _).trans (h.2.1.trans (by decide))
  oneEach := h.2.2.2.1
  source := h.2.2.1
  reserved := h.2.2.2.2.1
  stopped := h.2.2.2.2.2

theorem keysUnique_of_listed {s : State} (h : KeysListed s) : KeysUnique s where
  keys := h.1
  voices := h.2.1
  calls p hp ho hs := by
    obtain ⟨a, c, hc, x, hx, b⟩ := h.2.2.1 p hp ho hs
    exact ⟨p.2.dst - 56, c, x, by omega, hc, hx, b⟩
  listed c x z e hz := h.2.2.2 _ (Table.mem_of_find e) z hz

theorem batchesLinked_of_listed {s : State} (h : BatchesListed s) : BatchesLinked s where
  members k b e := by
    obtain ⟨h1, h2, h3, h4, h5⟩ := h.1 _ (Table.mem_of_find e)
    exact ⟨h1, h2, h3, h4, fun m hm => (h5 m hm).imp fun r hr => ⟨hr.1, hr.2⟩⟩
  records n r k e hk := by
    obtain ⟨h1, h2, b, hb, hn⟩ := h.2.1 _ (Table.mem_of_find e) k hk
    exact ⟨h1, h2, b, hb, hn⟩
  relay n r e ho hr := by
    obtain ⟨h1, h2, h3⟩ := h.2.2.1 _ (Table.mem_of_find e) ho hr
    exact ⟨h1, r.dst - 56, by simp only [] at h2; omega, h3⟩
  alone n r e hr hb := by
    obtain ⟨f, hf, h1⟩ := h.2.2.2 _ (Table.mem_of_find e) hr hb
    exact ⟨f, hf, h1⟩

theorem holdersAgree_of_listed {s : State} (h : HoldersListed s) : HoldersAgree s where
  holders z c := by
    refine ⟨fun e => ?_, fun ⟨x, e, ha, hz⟩ => (h.2.1 _ (Table.mem_of_find e)).1 ha z hz⟩
    obtain ⟨x, hx, h1⟩ := Table.of_reads (d := Zone.init) (P := fun (z : Nat) (x : Zone) => ∀ c ∈ x.holder, ∃ y ∈ callOf s c, y.active = true ∧ z ∈ y.zones) h.1
      (fun k c hc => by cases hc) z c e
    exact ⟨x, hx, h1⟩
  zones c x e := ⟨(h.2.1 _ (Table.mem_of_find e)).2.1, (h.2.1 _ (Table.mem_of_find e)).2.2.1⟩
  voices c x e := (h.2.1 _ (Table.mem_of_find e)).2.2.2.1
  queued c x e := (h.2.1 _ (Table.mem_of_find e)).2.2.2.2.1
  slots c x e := (h.2.1 _ (Table.mem_of_find e)).2.2.2.2.2.1
  order := ⟨h.2.2.1, fun c => ⟨h.2.2.2.1 c, fun ⟨a, b⟩ => by
    obtain ⟨x, e⟩ := Option.isSome_iff_exists.1 b
    exact (h.2.1 _ (Table.mem_of_find e)).2.2.2.2.2.2 a⟩⟩
  stop := h.2.2.2.2.1
  lamps := h.2.2.2.2.2

theorem claimantsAgree_of_listed {s : State} (h : ClaimantsListed s) : ClaimantsAgree s := by
  have v := Table.of_reads (P := fun (n : Nat) (v : Voice) => (v.state = .free ↔ v.claimant = none) ∧ (v.state ≠ .free → n < 32) ∧ claimantCheck s n v = true ∧
    ∀ f ∈ v.fade, f.b = .off → heldByTake v = true) (d := Voice.init) h.1 (fun k => ⟨by decide, fun e => absurd rfl e, rfl, by decide⟩)
  have q := Table.of_reads (d := CueList.init)
    (P := fun (l : Nat) (q : CueList) => (∀ r ∈ q.running, ∀ x ∈ r.labels, (voiceOf s x.2).claimant = some (.running l r.take x.1)) ∧
      ∀ k ∈ q.standby, k ≤ 999999 ∧ (cueOf s l k).isSome = true ∧ (q.state = .preloading ∨ q.state = .primed)) h.2.2.1
    (fun k => ⟨(by intro r hr; cases hr), (by intro r hr; cases hr)⟩)
  exact {
    claimed := fun n => ⟨(v n).1, (v n).2.1⟩
    standby := fun n l k x e => by
      have c : claimantCheck s n (voiceOf s n) = true := (v n).2.2.1
      simp [claimantCheck, e] at c
      exact ⟨c.1.1.1.1, c.1.1.1.2, c.1.1.2, c.1.2, c.2⟩
    calls := fun n c => by
      refine ⟨fun e => ?_, fun ⟨x, e, ha, hv⟩ => h.2.1 _ (Table.mem_of_find e) ha n hv⟩
      have c' : claimantCheck s n (voiceOf s n) = true := (v n).2.2.1
      simp only [claimantCheck, e, Option.any_eq_true, Bool.and_eq_true, beq_iff_eq] at c'
      exact c'
    labels := fun l r p hr hp => (q l).1 r hr p hp
    fades := fun n f e hb => (v n).2.2.2 f e hb
    waits := ⟨h.2.2.2.1, h.2.2.2.2.1, fun w hw => ⟨(h.2.2.2.2.2.1 w hw).1, (h.2.2.2.2.2.1 w hw).2.1, (h.2.2.2.2.2.1 w hw).2.2.1, fun n =>
      Table.of_reads (P := fun (_ : Nat) (v : Voice) => v.claimant ≠ some (.standby w.list w.number w.label)) (d := Voice.init) (h.2.2.2.2.2.1 w hw).2.2.2
        (fun _ e => by cases e) n⟩⟩
    noneFree := h.2.2.2.2.2.2
    pointers := fun l k e => (q l).2 k e }

theorem panelsBound_of_listed {s : State} (h : PanelsListed s) : PanelsBound s := by
  have v := Table.of_reads (P := fun (a : Nat) (p : Panel) => (p.enrolled = true → 1 ≤ a ∧ a ≤ 32) ∧ (p.enrolled = false → p = Panel.init) ∧ (∀ m ∈ p.mix, m ≤ 31) ∧
    (p.presence = .present → p.misses < 8)) (d := Panel.init) (fun p hp => ⟨(h.1 p hp).1, (h.1 p hp).2.1, (h.1 p hp).2.2.1, (h.1 p hp).2.2.2.1⟩)
    (fun k => ⟨(by intro e; cases e), fun _ => rfl, (by intro m hm; cases hm), (by intro e; cases e)⟩)
  have listed : ∀ a m, (panelOf s a).mix = some m → (a, panelOf s a) ∈ s.fb.panels := fun a m e =>
    Table.mem_of_read (d := Panel.init) (fun x => by rw [show panelOf s a = Panel.init from x] at e; cases e)
  exact ⟨fun a => (v a).1, fun a => (v a).2.1, fun a m e => (v a).2.2.1 m e,
    fun a b m ha hb => (h.1 _ (listed a m ha)).2.2.2.2 _ (listed b m hb) m ha hb, fun a => (v a).2.2.2, fun a e => h.2 a e⟩

/-- Every check on one state. -/
def soundCheck (s : State) : Bool :=
  orderedCheck s && decide (OwnersListed s) && decide (CapacityListed s) && decide (KeysListed s) && decide (BatchesListed s) &&
  decide (HoldersListed s) && decide (ClaimantsListed s) && decide (PanelsListed s)

theorem sound_of_check {s : State} (h : soundCheck s = true) : Sound s := by
  simp only [soundCheck, Bool.and_eq_true, decide_eq_true_eq] at h
  obtain ⟨⟨⟨⟨⟨⟨⟨a, b⟩, c⟩, d⟩, e⟩, f⟩, g⟩, i⟩ := h
  exact ⟨recordsOrdered_of_check a, ownersLawful_of_listed b, capacityHeld_of_listed c, keysUnique_of_listed d, batchesLinked_of_listed e,
    holdersAgree_of_listed f, claimantsAgree_of_listed g, panelsBound_of_listed i⟩

end Sys2Proof.Machine
end

