-- ==== Sys2Proof/Tests/Slice0.lean ====
section
/-! SUPPORT. Own tests: an ill-formed command for each check of WellFormed; small steps whose results the manual gives (its worked sequences
and tables, cited); and for each statement with hypotheses, a state and operands that meet them (`test_meets_<statement>`). -/

namespace Sys2Proof.Tests

open Sys2Proof.Machine

/- One test after another: elaborated side by side, a hundred small tests take a thread and its stack each. -/
set_option Elab.async false

def ha : Hdr := ⟨.a, 1⟩
def hb : Hdr := ⟨.b, 2⟩

/-- The engine after start-up. -/
def ready : State := { State.reset with ready := true, smp := { State.reset.smp with size := 16777216 } }

/-- A LIVE route of the desk, IN10→Z2. -/
def desk : Route :=
  { state := .live, src := 10, dst := 2, owner := .desk, base := .step 0, trim := 0, mute := false, duck := 0, set := 0, prot := false
    fade := none, duckFade := none, batch := none, last := none }

def fade (a b : Level) (dur n : Nat) : BaseFade := ⟨a, b, dur, n, .linear, .desk, none⟩
def routed (l : Table Route) : State := { ready with rt := ⟨l, []⟩ }
def entry : Route := { desk with src := 12, dst := 27, owner := .foldback }
def programme : Route := { desk with src := 100, dst := 56, owner := .relay }
def batch : Batch := ⟨20, .linear, .other, .gathering, false, [⟨0, none, .off⟩], 20, 20, 0⟩
def voiced (v : Voice) : State := { ready with ve := { ready.ve with voices := [(31, v)] } }
def locked (s : State) : State := { s with ss := { s.ss with locked := true } }
def halted (s : State) : State := { s with ss := { s.ss with stopped := true, stopCause := some (.port .a) } }
def aCue : Cue := ⟨.event 3, 0, 0, false, false, [], none⟩
def standing (q : CueList) : State :=
  { ready with cq := ⟨[(3999999, aCue)], [(3, { q with state := .primed, standby := some 999999 })]⟩ }
def aClip : Clip := ⟨0, 4800, none, 0, false⟩
def clipped : State := { ready with ve := { ready.ve with clips := [(511, aClip)] } }
def aCall : Call := ⟨some 7, .live 96, [0, 1], 1, -256, 100, 0, .port .b, false, none, false, []⟩
def called (c : Call) : State := { ready with rl := { ready.rl with calls := [(0, c)], order := [0], seq := 8 } }
def panelled (p : Panel) : State := { ready with fb := { ready.fb with panels := [(7, p)], polling := some 7 } }
def present : Panel := { Panel.init with enrolled := true, mix := some 3, presence := .present }
def flying (id : Nat) (s : State) : State := { s with ef := { s.ef with events := [⟨id, 1, 1, []⟩], cause := 1 } }
def queued (p : Port) (l : List Instr) (s : State) : State := updPort p (fun x => { x with requests := l }) s
def answered (p : Port) (l : List Reply) (s : State) : State := updPort p (fun x => { x with replies := l }) s

theorem taken (h : Hdr) (s : State) (a : canTake s h.port = true) (b : (portOf s h.port).requests = []) : Taken h s (begin 1 s) := ⟨a, b, rfl⟩

theorem delivered (k : Consumer) (e : InFlight) (s : State) (a : nextFor s k (awaited s) (unended s) = some e) :
    Delivered k e s { begin (e.depth + 1) s with
      ef := { (begin (e.depth + 1) s).ef with events := markDone k e (begin (e.depth + 1) s).ef.events } } := ⟨a, rfl⟩

/-! ## Well-formed commands: each check refuses something -/

theorem test_wf_startUp : (Instr.startUpComplete 23).wf = false ∧ (Instr.startUpComplete 30).wf = false := by decide
theorem test_wf_byte : (Instr.readVoice ha 256).wf = false ∧ (Instr.readVoice ha 255).wf = true := by decide
theorem test_wf_word : (Instr.unknownRequest ha 65536).wf = false := by decide
theorem test_wf_quad : (Instr.setPauseRamp ha 4294967296).wf = false := by decide
theorem test_wf_short : (Instr.setSourceTrim ha 0 32768).wf = false ∧ (Instr.setSourceTrim ha 0 (-32769)).wf = false := by decide
theorem test_wf_level : (Instr.setMaster ha 0 (.step (-32768)) none).wf = false := by decide
theorem test_wf_option : (Instr.setMaster ha 0 .off (some 256)).wf = false := by decide
theorem test_wf_fade : (Instr.postRoute ha ⟨0, 0, .off, some ⟨0, 256⟩, none, none, false⟩).wf = false := by decide
theorem test_wf_routeRef : (Instr.retireRoute ha (.handle 65536 0) none none).wf = false ∧
    (Instr.amendRoute ha ⟨.key 256 0, none, none, none, none, false⟩).wf = false := by decide
theorem test_wf_call : (Instr.placeCall ha ⟨0, 65536, 0, 0, 0, 0, 0⟩).wf = false := by decide
theorem test_wf_actions : (Instr.postCue ha ⟨0, 1, 0, 0, 0, 0, 0, false, List.replicate 43 ⟨0, .event 0, false⟩⟩).wf = false ∧
    (Instr.postCue ha ⟨0, 1, 0, 0, 0, 0, 0, false, [⟨256, .event 0, false⟩]⟩).wf = false ∧
    (Instr.replaceCue ha ⟨0, 1, 0, 0, 0, 0, 0, false, [⟨0, .route (.label 256) 0 .off none none none, false⟩]⟩).wf = false ∧
    (Instr.replaceCue ha ⟨0, 1, 0, 0, 0, 0, 0, false, [⟨0, .retire (.other 256) ⟨0, 0⟩, false⟩]⟩).wf = false ∧
    (Instr.replaceCue ha ⟨0, 1, 0, 0, 0, 0, 0, false, [⟨0, .stop (.clip 65536) 0, false⟩]⟩).wf = false ∧
    (Instr.replaceCue ha ⟨0, 1, 0, 0, 0, 0, 0, false, [⟨0, .test (.contact 256) 0 0 0, false⟩]⟩).wf = false ∧
    (Instr.replaceCue ha ⟨0, 1, 0, 0, 0, 0, 0, false, [⟨0, .call (.preset 256), false⟩]⟩).wf = false := by decide +kernel
theorem test_wf_clip : (Instr.postClip ha ⟨65536, 0, 0, none, 0, false, false⟩).wf = false := by decide
theorem test_wf_words : (Instr.writeSamples ha 0 (List.replicate 256 0)).wf = false := by decide +kernel
theorem test_wf_lanes : (Instr.samplePeriod []).wf = false := by decide
theorem test_wf_units : (Instr.voiceStart 32).wf = false ∧ (Instr.baseFadeComplete 1024).wf = false ∧ (Instr.windowExpiry 8).wf = false ∧
    (Instr.triggerDue 4).wf = false ∧ (Instr.timerPeriod 4).wf = false ∧ (Instr.callExpired 16).wf = false ∧
    (Instr.contactChange 16 true).wf = false ∧ (Instr.goLink 4).wf = false ∧ (Instr.outputFunction 8).wf = false ∧
    (Instr.watchEvaluation 16).wf = false ∧ (Instr.presetPlaceLink 8).wf = false ∧ (Instr.conditionLink 8).wf = false := by decide
theorem test_wf_mix : (Instr.setMixConfig ha ⟨0, none, none, none, some (List.replicate 256 0), none, none⟩).wf = false := by decide +kernel
theorem test_wf_base : (Instr.setFoldbackBase ha ⟨256, 0, .off, none, none, false⟩).wf = false := by decide
theorem test_wf_zone : (Instr.setZoneConfig ha ⟨0, none, none, none, none, none, none, some (some 256), none, none⟩).wf = false := by decide
theorem test_wf_preset : (Instr.setCallPreset ha ⟨0, none, none, none, none, none, none, some 65536, none⟩).wf = false := by decide
theorem test_wf_input : (Instr.setContactInput ha ⟨256, none, none, none, none, none⟩).wf = false := by decide
theorem test_wf_watch : (Instr.setWatch ha ⟨0, 0, 0, 0, 0, 0, 0, 65536, 0, none⟩).wf = false := by decide
theorem test_wf_stop : (Instr.setStopConfig ha ⟨none, some 32768, none, none, none⟩).wf = false := by decide

/-! ## Worked figures of the manual -/

/-- TABLE 2-2. -/
theorem test_gain_codes : [192, 191, 0, -48, -896, -960, -959, -1022, -1023, -1024].map (fun e => gainCode (.step e)) =
    [8388608, 8323072, 1048576, 655360, 64, 32, 33, 17, 16, 16] := by decide
/-- TABLE 2-5 and the figures below it. -/
theorem test_fade_points :
    fadePoint .linear .towardStart (.step (-256)) (.step (-64)) 2000 500 = -208 ∧
    fadePoint .linear .towardStart (.step (-256)) (.step (-64)) 2000 1300 = -132 ∧
    fadePoint .linear .nearest (.step (-256)) (.step (-64)) 2000 1300 = -131 ∧
    fadePoint .easeIn .towardStart (.step (-256)) (.step (-64)) 2000 1300 = -175 ∧
    fadePoint .easeOut .towardStart (.step (-256)) (.step (-64)) 2000 1300 = -88 ∧
    fadePoint .linear .towardStart (.step (-64)) (.step (-256)) 2000 1300 = -188 ∧
    fadePoint .linear .nearest (.step (-64)) (.step (-256)) 2000 1300 = -189 := by decide
/-- 12.5: the check value of the CRC-16 named there (polynomial 0x1021, start 0xFFFF). -/
theorem test_crc : crc16 [0x31, 0x32, 0x33, 0x34, 0x35, 0x36, 0x37, 0x38, 0x39] = 0x29B1 := by decide +kernel
/-- TABLE 12-2, R197: LookupRoute is kind 3; a length beyond 1024; a frame that ends early. -/
theorem test_request_frames :
    requestFrame .a [0, 3, 0x12, 0x34, 0, 2, 12, 3, 99] = some (.lookupRoute ⟨.a, 0x1234⟩ 12 3) ∧
    requestFrame .b [0, 3, 0, 1, 4, 1] = some (.unknownRequest ⟨.b, 1⟩ 3) ∧ requestFrame .a [0, 3, 0, 1, 0, 2, 12] = none ∧
    requestFrame .a [0, 3, 0, 1, 0, 1, 12] = some (.unknownRequest ⟨.a, 1⟩ 3) := by decide
/-- TABLE 12-5: an answer with no request, and a NUDGE of -2 on IN12 of mix 3, sequence 9, of panel 7. -/
theorem test_panel_frames :
    panelFrame ([7, 0] ++ bytesOf 2 (crc16 [7, 0]).toNat) = some (7, none) ∧
    panelFrame ([7, 1, 9, 2, 3, 12, 0xFF, 0xFE, 0, 0] ++ bytesOf 2 (crc16 [7, 1, 9, 2, 3, 12, 0xFF, 0xFE, 0, 0]).toNat) =
      some (7, some (9, .nudge 3 12 (-2))) ∧ panelFrame [7, 0, 0, 0] = none := by decide +kernel
/-- R42: the meter of full scale is -1, and of magnitude 1 is -1472. -/
theorem test_meters : meterOf 8388607 = .step (-1) ∧ meterOf 1 = .step (-1472) ∧ meterOf 0 = .off := by decide +kernel
/-- TABLE 6-3, Chapter 12: the states of a voice are numbered in the order of their table. -/
theorem test_voice_states : [VoiceState.free, .preloading, .primed, .playing, .stopping, .pausing, .paused].map voiceStateCode = List.range 7 := by
  decide
/-- TABLE 12-1: a ready port with a reply waiting, show stopped and locked. -/
theorem test_status_byte : statusByte (answered .a [⟨1, okWith []⟩] (locked (halted ready))) .a = 0b10100110 := by decide

/-! ## Small steps -/

/-- The next state of a command that goes on. -/
def after (r : Result) : Option State :=
  match r with
  | .next t => some t
  | _ => none

/-- The result codes and payload bytes that port A holds after a command. -/
def said (r : Result) : Option (List (Code × List Byte)) :=
  (after r).map (fun t => t.portA.replies.map (fun x => (x.answer.code, encodeFields x.answer.data)))

/-- R12, R17: a posted level is clamped, the reply carries handle 0 and generation 0. -/
theorem test_post_route : said (exec (.postRoute ha ⟨12, 3, .step 300, none, none, none, false⟩) ready) = some [(.ok, [0, 0, 0, 0])] ∧
    ((after (exec (.postRoute ha ⟨12, 3, .step 300, none, none, none, false⟩) ready)).bind (fun t => routeAt t 0)).map (·.base) =
      some (.step 192) := by decide +kernel
/-- R8: the stop source is reserved. -/
theorem test_post_stop_source : said (exec (.postRoute ha ⟨99, 3, .off, none, none, none, false⟩) ready) = some [(.reserved, [])] := by decide
/-- R3: a stale generation. -/
theorem test_retire_stale : said (exec (.retireRoute ha (.handle 0 1) none none) (routed [(0, desk)])) = some [(.stale, [])] := by decide
/-- R61: a FREE batch answers its state alone; one suspended while FADING the state before (2) and the frozen count (n = 20), at its end. -/
theorem test_read_batch : encodeFields (batchAnswer 7 ready).data = [0] ∧
    (let s := { ready with ru := ⟨[(0, { batch with phase := .fading, suspended := true, n := 20 })], 20⟩ }
     (encodeFields (batchAnswer 0 s).data).reverse.take 5 = [20, 0, 0, 0, 2]) := by decide
/-- R107: C0 is TRUE and refused. -/
theorem test_set_condition_zero : said (exec (.setCondition ha 0 false) ready) = some [(.invalid, [])] := by decide
/-- R177: UnlockShow needs the key. -/
theorem test_unlock_needs_key : said (exec (.unlockShow ha) (locked ready)) = some [(.keyreq, [])] := by decide
/-- R178: SetStopConfig while stopped is refused HELD before the lock (10.6). -/
theorem test_stop_config_held : said (exec (.setStopConfig ha ⟨none, none, none, none, none⟩) (locked (halted ready))) = some [(.held, [])] := by
  decide
/-- R74: a GO within the guard is ignored. -/
theorem test_go_ignored : said (exec (.go ha 3) (standing { CueList.init with sinceGo := some 299 })) = some [(.ignored, [])] := by decide
/-- R72, R75 to R77: the last cue is taken, the list ends, events 128 + 3 and 140 + 3 are emitted (GO-taken after the list's end). -/
theorem test_go_ends_list : (after (exec (.go ha 3) (standing CueList.init))).map (fun t =>
    ((listOf t 3).state, (listOf t 3).takes, t.ef.events.map (·.id))) = some (.ended, 1, [143, 131, 139]) := by decide
/-- 9.9: the first closure of input 2 emits events 3 and 35. -/
theorem test_contact_rise : (after (exec (.contactChange 2 true)
    { ready with ef := { ready.ef with inputs := [(2, { ContactIn.init with rise := true })], goLinks := [(0, 3)], stopLink := 35 } })).map
      (fun t => t.ef.events.map (fun e => (e.id, e.depth))) = some [(3, 1), (35, 1)] := by decide
/-- 10.6: the stop takes every zone, and its events end with 176. -/
theorem test_show_stop : (after (exec (.showStop hb) ready)).map (fun t => (t.ss.stopCause, showstopCount t, (zoneOf t 14).holder)) =
    some (some (.port .b), 15, some 16) := by decide +kernel
/-- TABLE 10-1, 12.4: a stop by the stop link has cause 2, and SHOW-STOP names it. -/
theorem test_stop_by_link : (after (exec .stopLink (flying 64 { ready with ef := { ready.ef with stopLink := 64 } }))).map (fun t =>
    (t.ss.stopCause, (encodeFields (showStateAnswer t).data)[2]?, noticeOf t .showStop)) = some (some .stopLink, some 2, ⟨true, 1, some (.num 2)⟩) := by
  decide +kernel
/-- 10.6: the resume releases the routes and advances their generations. -/
theorem test_show_resume : ((after (exec (.showStop hb) ready)).bind (fun t => after (exec (.showResume ha) t))).map
    (fun t => (t.ss.stopped, showstopCount t, genOf t 14, (zoneOf t 14).holder)) = some (false, 0, 1, none) := by decide +kernel
/-- R119: a late start that a boundary marked waits over a stop and a resume taken before it: VOICE_START leaves the voice PRIMED until the next
boundary. -/
theorem test_start_waits_over_stop :
    (let s := ((after (exec (.showStop hb) (voiced { Voice.init with
        state := .primed, claimant := some (.running 3 0 7), startDue := true, starting := true }))).bind
          (fun t => after (exec (.showResume ha) t)))
     (s.bind (fun t => after (exec (.voiceStart 31) t))).map (fun t => ((voiceOf t 31).state, (voiceOf t 31).startDue, boundaryOpen t)) =
        some (.primed, true, false) ∧
     ((s.bind (fun t => after (exec .frameBoundary t))).bind (fun t => after (exec (.voiceStart 31) t))).map (fun t => (voiceOf t 31).state) =
        some .playing) := by decide +kernel
def lookups (n : Nat) (s : State) : Option State :=
  (List.range n).foldl (fun o k => o.bind (fun t => after (exec (.writeRequest .a [0, 3, 0, BitVec.ofNat 8 (k + 1), 0, 2, 12, 3]) t))) (some s)
/-- 11.6: of nine requests eight are taken as they arrive and the ninth waits; the next status byte shows reply available; one reply read, the ninth is
taken. -/
theorem test_nine_requests : (lookups 9 ready).map (fun t => (t.portA.replies.map (·.tag), t.portA.requests.length, statusByte t .a)) =
      some ([1, 2, 3, 4, 5, 6, 7, 8], 1, 0xA0) ∧
    ((lookups 9 ready).bind (fun t => after (exec (.readReply .a 7) t))).map (fun t => (t.portA.replies.map (·.tag), t.portA.requests)) =
      some ([2, 3, 4, 5, 6, 7, 8, 9], []) := by decide +kernel
/-- 11.6: the seventeenth is discarded, and DROPPED-REQUEST raised. -/
theorem test_seventeen_requests : (lookups 17 ready).map (fun t => (t.portA.dropped, t.portA.requests.length, t.portA.replies.length,
    noticeOf t .droppedRequest)) = some (true, 8, 8, ⟨true, 1, some (.num 0)⟩) := by decide +kernel
/-- R165: the timer rows of one boundary are its one cause: event 65, though due first to its consumer, waits for 64 before it. -/
theorem test_one_boundary_one_cause :
    (let s : State := { ready with ef := { ready.ef with timers := [(0, 10), (1, 100)], goLinks := [(0, 64), (1, 65)] } }
     ((after (exec (.timerPeriod 0) s)).bind (fun t => after (exec (.timerPeriod 1) t))).map (fun t =>
       (t.ef.events.map (fun e => (e.id, e.cause)), (nextFor t (.go 1) (awaited t) (unended t)).map (·.id),
         (nextFor t (.go 0) (awaited t) (unended t)).map (·.id)))) = some ([(64, 0), (65, 0)], none, some 64) := by decide +kernel
/-- R18, R44: a rounding given now acts from the next boundary; a record retired before it starts from the level last used (TABLE 2-5). -/
theorem test_new_rounding_waits :
    (((after (exec (.setStatusControls ha 0 none (some 1) none)
        (routed [(0, { desk with base := .step (-132), fade := some (fade (.step (-256)) (.step (-64)) 2000 1300) })]))).bind
      (fun t => after (exec (.retireRoute ha (.handle 0 0) none none) t))).bind (fun t => routeAt t 0)).map (·.base) = some (.step (-132)) := by
  decide +kernel
/-- R191: a reply cut short stays. -/
theorem test_read_short : (after (exec (.readReply .a 5) (answered .a [⟨1, okWith []⟩] ready))).map
    (fun t => (t.portA.replies.length, t.portA.out)) = some (1, [0xA0, 0, 1, 0, 0, 0]) := by decide
/-- 8.7: a LIVE call to two free zones activates; its reply is slot 0, sequence 7, ACTIVE. -/
theorem test_place_call : said (exec (.placeCall ha ⟨0, 96, 3, 0, 1, -256, 0⟩) { ready with rl := { ready.rl with seq := 7 } }) =
    some [(.ok, [0, 0, 7, 1])] := by decide +kernel
/-- R138: the eighth unanswered poll loses the panel. -/
theorem test_panel_lost : (after (exec (.pollUnanswered 7) (panelled { present with misses := 7 }))).map (fun t => (panelOf t 7).presence) =
    some .lost := by decide
/-- R168: timer 0 at ten boundaries returns to 0. -/
theorem test_timer : (after (exec (.timerPeriod 0) { ready with ef := { ready.ef with timers := [(0, 10)] } })).map (fun t => timerOf t 0) =
    some 0 := by decide
/-- R172: a line in both masks turns over. -/
theorem test_drive_both : drivenLevel true true true = false ∧ drivenLevel true true false = true := by decide

/-! ## Sound states -/

def playCue : Cue := { aCue with actions := [⟨0, .play 0 511 0 0 0 10, false⟩, ⟨0, .play 7 511 0 0 0 10, false⟩] }
/-- A state with a record of every kind: routes of every sort, a batch, an ACTIVE call of zones 0 and 1, a QUEUED call, a standby whose voice
preloads, a panel being polled; a frame boundary waits at the front of its queue. -/
def house : State :=
  { ready with
    pending := [.frameBoundary]
    rt := ⟨[(0, desk), (1, entry), (2, programme), (3, { desk with src := 11, state := .retiring, batch := some 0 }),
      (4, { desk with src := 96, dst := 57, owner := .relay }), (5, { desk with src := 95 })], []⟩
    ru := ⟨[(0, { batch with members := [⟨3, none, .off⟩], count := 1 })], 20⟩
    cq := ⟨[(3999999, playCue)], [(3, { CueList.init with state := .preloading, standby := some 999999 })]⟩
    ve := { ready.ve with
      clips := [(511, aClip)], voices := [(31, { Voice.init with state := .preloading, claimant := some (.standby 3 999999 7), clip := 511 })] }
    fb := { ready.fb with panels := [(7, present)], polling := some 7 }
    rl := { ready.rl with
      zones := [(0, { Zone.init with enabled := true, holder := some 0, lamp := some 15 }), (1, { Zone.init with holder := some 0 })]
      calls := [(0, { aCall with active := true, routes := [1] }), (1, { aCall with seq := some 8, zones := [1, 2], priority := 2 })]
      order := [0, 1], seq := 9 }
    ef := { ready.ef with outputs := [(15, { ContactOut.init with high := true })] } }
theorem house_sound : Sound house := sound_of_check (by decide +kernel)
/-- `house`, while the show is stopped. -/
def stopRecord : Route := { desk with src := 99, dst := 70, owner := .showstop }
def stopCall : Call := ⟨none, .live 99, List.range 15, 3, -1024, 0, 0, .port .a, true, none, false, []⟩
def closed : State :=
  { halted (routed [(0, desk), (1, stopRecord)]) with
    pending := [.showResume ha]
    rl := { ready.rl with calls := [(16, stopCall)], zones := (List.range 15).map (fun z => (z, { Zone.init with holder := some 16 })) } }
theorem closed_sound : Sound closed := sound_of_check (by decide +kernel)

/-! ## The hypotheses of the statements are met -/

theorem test_meets_StepTakesTheFrontCommand : State.reset.pending = [] := rfl

theorem test_meets_ColdResetAndStartUp : (State.reset.ef.inputs.rising = true ∧ 24 ≤ 24 ∧ 24 ≤ 29) ∧ 24 ≤ 29 ∧ 29 ≤ 29 := by decide

/-- Both queues of port A full; a reply is about to be read. -/
def crowded : State :=
  { queued .a (List.replicate 8 (.lockShow ha)) (answered .a (List.replicate 8 ⟨1, okWith []⟩) ready) with pending := [.readReply .a 6] }

theorem test_meets_StepsKeepPortQueuesBounded : QueuesBounded crowded ∧ ∃ t, step crowded = .next t :=
  ⟨⟨⟨by decide, fun i hi => ⟨ha, by rw [List.eq_of_mem_replicate hi]; exact ⟨rfl, rfl⟩⟩, by decide, by decide⟩,
    ⟨by decide, fun i hi => (by cases hi), by decide, by decide⟩, by decide, by decide, by decide, by decide⟩, _, rfl⟩

theorem test_meets_StepsKeepRecordsOrdered :
    (RecordsOrdered house ∧ ∃ t, step house = .next t) ∧ MemoryCanonical { ready with pending := [.meterWindow] } ∧
    ∃ t, step { ready with pending := [.meterWindow] } = .next t := ⟨⟨house_sound.ordered, _, rfl⟩, rfl, _, rfl⟩
theorem test_meets_StepsKeepOwnersLawful : Sound house ∧ ∃ t, step house = .next t := ⟨house_sound, _, rfl⟩
theorem test_meets_StepsKeepCapacityHeld : Sound closed ∧ ∃ t, step closed = .next t := ⟨closed_sound, _, rfl⟩
theorem test_meets_StepsKeepKeysUnique : Sound house ∧ ∃ t, step house = .next t := ⟨house_sound, _, rfl⟩
theorem test_meets_StepsKeepBatchesLinked : Sound house ∧ ∃ t, step house = .next t := ⟨house_sound, _, rfl⟩
theorem test_meets_StepsKeepHoldersAgree : Sound closed ∧ ∃ t, step closed = .next t := ⟨closed_sound, _, rfl⟩
theorem test_meets_StepsKeepClaimantsAgree : Sound house ∧ ∃ t, step house = .next t := ⟨house_sound, _, rfl⟩
theorem test_meets_StepsKeepPanelsBound : Sound house ∧ ∃ t, step house = .next t := ⟨house_sound, _, rfl⟩

theorem test_meets_WellFormedCommandsGoOn : (Instr.voiceStart 31).wf = true ∧ (Instr.samplePeriod (List.replicate 80 0)).wf = true ∧
    32 ≤ 32 ∧ 1024 ≤ 1024 ∧ 8 ≤ 8 ∧ 16 ≤ 16 ∧ 4 ≤ 4 ∧ 23 < 24 ∧ 29 < 30 := by decide +kernel

/-! ### Ports -/

theorem test_meets_RequestsArriveAndAreTakenInOrder :
    (ready.ready = true ∧ (portOf ready .a).requests.length < 8 ∧ State.reset.ready = false ∧ 8 ≤ (portOf crowded .a).requests.length) ∧
    (canTake crowded .a = false ∧ (portOf ready .b).requests = [] ∧ canTake (queued .a [.lockShow ha] ready) .a = true ∧
      (portOf (queued .a [.lockShow ha] ready) .a).requests = [.lockShow ha]) ∧
    ((Instr.lockShow ha).header = some ha ∧ Taken ha ready (begin 1 ready)) ∧
    requestFrame .a [0, 3, 0, 1, 0, 2, 12, 3] = some (.lookupRoute ha 12 3) ∧ requestFrame .a [0, 3, 0, 1, 0] = none :=
  ⟨by decide, by decide, ⟨rfl, taken _ _ rfl rfl⟩, by decide⟩

theorem test_meets_ReadReplySendsTheHeadReply :
    ((portOf (answered .a [⟨1, okWith []⟩] ready) .a).replies = [⟨1, okWith []⟩] ∧ (replyFrame ⟨1, okWith []⟩).length ≤ 6) ∧
    5 < (replyFrame ⟨1, okWith []⟩).length ∧ (portOf ready .b).replies = [] := by decide

theorem test_meets_ReadsAnswerAndChangeNothing :
    (readsOnly (.readRoute hb 1023) = true ∧ (Instr.readRoute hb 1023).header = some hb ∧
      Taken hb (routed [(1023, desk)]) (begin 1 (routed [(1023, desk)])) ∧
      readable (begin 1 (routed [(1023, desk)])) (.readRoute hb 1023)) ∧
    (Taken hb house (begin 1 house) ∧ house.rt.routes.rising = true ∧ (∀ p ∈ house.rt.routes, p.1 < 1024) ∧ house.cq.cues.rising = true) ∧
    (findKey house 100 71 = none ∧ findKey house 10 2 = some 0 ∧ routeAt house 0 = some desk ∧ routeAt house 1023 = none ∧
      house.ru.batches.find 7 = none ∧ (house.ru.batches.find 0).isSome = true ∧ clipOf house 510 = none ∧ clipOf house 511 = some aClip ∧
      callOf house 16 = none ∧ ∀ p ∈ house.rl.calls, ∀ z ∈ p.2.zones ++ p.2.routes, z < 15) ∧
    (cueOf house 3 999999 = some playCue ∧ (∀ k, 999998 ≤ k → k < 999999 → cueOf house 3 k = none) ∧
      ∀ k, 999999 ≤ k → k ≤ 999999 → cueOf house 2 k = none) ∧
    (∀ a, some 7 = some a ↔ a ≤ 32 ∧ (panelOf house a).enrolled = true ∧ (panelOf house a).mix = some 3) ∧
    ∀ a, none = some a ↔ a ≤ 32 ∧ (panelOf house a).enrolled = true ∧ (panelOf house a).mix = some 31 := by
  have all : ∀ a, a ≤ 32 → (some 7 = some a ↔ (panelOf house a).enrolled = true ∧ (panelOf house a).mix = some 3) := by decide +kernel
  have none31 : ∀ a, a ≤ 32 → ¬((panelOf house a).enrolled = true ∧ (panelOf house a).mix = some 31) := by decide +kernel
  refine ⟨⟨rfl, rfl, taken _ _ rfl rfl, by unfold readable; decide⟩, ⟨taken _ _ rfl rfl, by decide⟩, by decide +kernel,
    ⟨rfl, fun k h₁ h₂ => ?_, fun k h₁ h₂ => ?_⟩, fun a => ⟨fun h => ?_, fun ⟨h, w⟩ => (all a h).2 w⟩, fun a => ⟨nofun, fun ⟨h, w⟩ => (none31 a h w).elim⟩⟩
  · obtain rfl : k = 999998 := by omega
    rfl
  · obtain rfl : k = 999999 := by omega
    rfl
  · obtain rfl := Option.some.inj h
    decide

theorem test_meets_RequestsAreDeniedOrLocked :
    (deskOnly (.lockShow hb) = true ∧ (Instr.lockShow hb).header = some hb ∧ hb.port = .b ∧ Taken hb ready (begin 1 ready)) ∧
    guarded (begin 1 (locked ready)) = true ∧ guardedRequest (begin 1 (locked ready)) (.setLink ha 5 64) ∧
    (Instr.setLink ha 5 64).header = some ha ∧ ha.port = .a ∧ Taken ha (locked ready) (begin 1 (locked ready)) :=
  ⟨⟨rfl, rfl, rfl, taken _ _ rfl rfl⟩, rfl, trivial, rfl, rfl, taken _ _ rfl rfl⟩

/-! ### Routes and retirement -/

theorem test_meets_HandlesCarryGenerations :
    routeAt (routed [(1023, desk)]) 1023 = some desk ∧ Taken ha ready (begin 1 ready) ∧ 1023 < 1024 ∧ 1 ≠ genOf (begin 1 ready) 1023 ∧
    0 = genOf (begin 1 ready) 1023 ∧ routeAt (begin 1 ready) 1023 = none ∧
    ∃ q : AmendArgs, Instr.amendRoute ha ⟨.handle 1023 1, none, none, none, none, false⟩ = .amendRoute ha q ∧ q.route = .handle 1023 1 :=
  ⟨rfl, taken _ _ rfl rfl, by decide, by decide, by decide, by decide, _, rfl, rfl⟩

/-- A PostRoute to PGM, with a fade, status set and protection. -/
def posting : PostArgs := ⟨98, 71, .step 193, some ⟨600001, 2⟩, some 3, some true, false⟩
/-- 944 records, none into PGM; and 64 records into PGM. -/
def fullTable : State := routed ((List.range 944).map (fun n => (n, { desk with src := n / 24, dst := n % 24 })))
def fullDest : State := routed ((List.range 64).map (fun n => (n, { desk with src := n, dst := 71 })))

theorem test_meets_RoutesArePostedAndAmended :
    (Taken ha (routed [(0, desk)]) (begin 1 (routed [(0, desk)])) ∧
      (posting.src ≤ 100 ∧ generalDst posting.dst = true ∧ ¬(posting.src = 100 ∧ posting.dst = 71) ∧ (∀ x ∈ posting.set, x ≤ 3) ∧
       (∀ f ∈ posting.fade, f.curve ≤ 2) ∧ findKey (begin 1 (routed [(0, desk)])) 98 71 = none ∧ posting.src ≠ ready.ss.stopSource ∧
       (isVoice posting.src = true → (voiceOf ready (posting.src - 64)).state ≠ .free) ∧ generalCount (routed [(0, desk)]) < 944 ∧
       destCount (routed [(0, desk)]) 71 < 64 ∧ routeAt (routed [(0, desk)]) 1 = none ∧
       ∀ m, m < 1 → (routeAt (routed [(0, desk)]) m).isSome = true)) ∧
    ((generalDst 24 = false ∧ generalDst 70 = false) ∧ 99 = ready.ss.stopSource ∧ (isVoice 64 = true ∧ (voiceOf ready 0).state = .free) ∧
     (944 ≤ generalCount (begin 1 fullTable) ∧ findKey (begin 1 fullTable) 98 71 = none) ∧
     (generalCount (begin 1 fullDest) < 944 ∧ 64 ≤ destCount (begin 1 fullDest) 71 ∧ findKey (begin 1 fullDest) 98 71 = none)) ∧
    ((routeAt (begin 1 (routed [(0, desk)])) 0 = some desk ∧ notDesks desk.owner = false ∧ (desk.prot = true → guarded ready = false)) ∧
     resolveRef (begin 1 (routed [(0, desk)])) (.handle 0 0) = .ok 0 ∧ badSet (some 3) = false ∧ badFade (some ⟨1, 0⟩) = false ∧
     findKey (begin 1 (routed [(0, desk)])) 10 2 = some 0) ∧
    routeAt (routed [(0, { desk with owner := .cue 1 })]) 0 = some { desk with owner := .cue 1 } ∧ notDesks (.cue 1) = false :=
  ⟨⟨taken _ _ rfl rfl, by decide⟩, by decide +kernel, by decide, by decide⟩

def retiring : Route := { desk with state := .retiring, batch := some 0 }
def batched (l : Table Batch) : State := { routed [(0, desk)] with ru := ⟨l, 20⟩ }

theorem test_meets_RetirementsPlaceTheirRecords :
    (∀ s ∈ [routed [(0, desk)], routed [(0, retiring)], batched [(0, { batch with dur := 0 })],
        batched ((List.range 8).map (fun n => (n, { batch with phase := .fading })))],
      canTake s .a = true ∧ s.portA.requests = [] ∧ resolveRef (begin 1 s) (.handle 0 0) = .ok 0) ∧
    (freeBatch (batched []) = some 0 ∧ joinable (batched [(0, { batch with dur := 0 })]) ⟨0, .linear, .other, .desk, none⟩ = some 0 ∧
     joinable (batched ((List.range 8).map (fun n => (n, { batch with phase := .fading })))) ⟨0, .linear, .other, .desk, none⟩ = none ∧
     freeBatch (batched ((List.range 8).map (fun n => (n, { batch with phase := .fading })))) = none) ∧
    Taken ha (locked (routed [(0, desk)])) (begin 1 (locked (routed [(0, desk)]))) ∧
    (begin 1 (locked (routed [(0, desk)]))).rt.routes.rising = true ∧ ownerOf 4 = some .desk ∧ notDesks .desk = false ∧ ownerOf 3 = some (.cue 3) ∧
    ∀ p ∈ groupOf (begin 1 (locked (routed [(0, desk)]))) .desk (some 2), p.2.state = .live → p.2.prot = false :=
  ⟨by decide, by decide, taken _ _ rfl rfl, by decide⟩

theorem test_meets_BatchesAndFadesComplete :
    ((batched [(7, batch)]).ru.batches.find 7 = some batch ∧ batch.phase = .gathering ∧ 0 < batch.count ∧ batch.window ≤ batch.count) ∧
    (let b : Batch := { batch with phase := .fading, n := 20 }
     let s := { routed [(0, { desk with state := .retiring, batch := some 7 })] with ru := ⟨[(7, b)], 20⟩ }
     s.ru.batches.find 7 = some b ∧ b.phase = .fading ∧ 0 < b.n ∧ b.dur ≤ b.n ∧ b.members ≠ [] ∧ (b.members.map (·.handle)).Nodup ∧
       ∀ m ∈ b.members, (routeAt s m.handle).map (·.batch) = some (some 7)) ∧
    (routeAt (routed [(1023, { desk with fade := some (fade (.step 0) .off 1 1) })]) 1023).isSome = true ∧
    (routeAt (routed [(1023, { desk with state := .retiring, fade := some (fade (.step 0) .off 0 1) })]) 1023).isSome = true ∧
    (routeAt (routed [(1023, { programme with duckFade := some ⟨0, -256, 50, 50⟩ })]) 1023).isSome = true ∧
    ((voiceOf (voiced { Voice.init with fade := some ⟨.off, .step 0, 10, 10, none⟩ }) 31).fade = some ⟨.off, .step 0, 10, 10, none⟩ ∧
      Level.step 0 ≠ .off) := by decide

theorem test_meets_LevelsWindowsAndRampsAreSet : Taken ha ready (begin 1 ready) ∧ guarded (begin 1 ready) = false ∧ isFoldDst 55 = true :=
  ⟨taken _ _ rfl rfl, rfl, rfl⟩

/-! ### Levels -/

theorem test_meets_GainCodesFollowTheEffectiveLevel : (-1024 : Int) ≤ -1024 ∧ (-1024 : Int) ≤ 192 := by decide

theorem test_meets_LevelsFollowTheirFadesAndLayers :
    (0 < 1 ∧ 1999 < 2000) ∧
    (isVoice 63 = false ∧ 31 < 32 ∧ (voiceOf (voiced { Voice.init with level := .step (-64) }) 31).starting = false ∧
      (voiceOf (voiced { Voice.init with starting := true, fadeIn := 2, startLevel := 192 }) 31).starting = true ∧
      (0 < 500 ∧ 500 ≤ 500) ∧ (499 < 500 ∨ 499 = 0)) ∧
    (sourceTerm ready 10 = .step 0 ∧ masterOf ready 2 = .step 0 ∧ desk.base = .step 0 ∧ desk.mute = false ∧
      (0 : Int) + 0 + desk.trim + desk.duck + 0 ≤ 192) ∧
    (0 : Int) + -1024 + (-128) + 0 + 0 < -1024 ∧ ((192 : Int) < 0 + 192 + 64 + 0 + 0 ∧ (setOf ready 0).mode = .limit) ∧
    (setOf { ready with le := { ready.le with sets := [(0, { StatusSet.init with mode := .hold })] } } 0).mode = .hold ∧
    (-1024 ≤ (mixOf ready 3).ceiling ∧ (mixOf ready 3).ceiling ≤ 192) := by decide

def aLoop : Clip := ⟨0, 9, some (3, 6), 0, false⟩

theorem test_meets_MixesReadTheirSources :
    (63 < 64 ∧ 96 ≤ 99 ∧ 99 < 100 ∧ 95 = 64 + 31) ∧
    (voiceOf (voiced { Voice.init with state := .stopping }) 31).state = .stopping ∧
    (47 < 48 ∧ 71 < 72 ∧ Table.rising [(crossKey 100 71, (⟨16, 32⟩ : Crosspoint))] = true ∧
      ∀ p ∈ ([(crossKey 100 71, ⟨16, 32⟩)] : Table Crosspoint), p.1 < 101 * 72) ∧
    (let v : Voice := { Voice.init with state := .playing, mode := .vamp, pos := 5, phase := .inLoop, buffer := [7] }
     v.atEnd = false ∧ v.buffer = [7] ∧ ({ v with buffer := [] } : Voice).buffer = [] ∧ v.mode ≠ .once ∧ aLoop.loop = some (3, 6) ∧ 6 ≤ v.pos + 1 ∧
       v.exitPending = false ∧ ({ v with exitPending := true } : Voice).exitPending = true ∧ ({ v with phase := .tail } : Voice).phase = .tail ∧
       ({ v with phase := .before } : Voice).phase = .before ∧ ({ v with pos := 4 } : Voice).pos + 1 < 6) := by decide

/-! ### The frame boundary -/

theorem test_meets_FrameBoundaryAdvancesFadesAndGains :
    ((routeAt (routed [(0, { desk with fade := some (fade (.step 0) .off 1 0), duckFade := some ⟨0, -256, 1, 0⟩ })]) 0).isSome = true ∧
      (halted ready).ss.stopped = true ∧ ({ fade (.step 0) .off 1 1 with origin := .cue 3 } : BaseFade).origin = .cue 3 ∧ desk.batch = none) ∧
    (routed [(0, desk), (1, entry)]).rt.routes.rising = true ∧ (routed [(0, desk), (1, entry)]).le.crosspoints.rising = true ∧
    (∀ p ∈ (routed [(0, desk), (1, entry)]).rt.routes, ∀ q ∈ (routed [(0, desk), (1, entry)]).rt.routes,
      p.2.src = q.2.src → p.2.dst = q.2.dst → p = q) ∧ ∀ p ∈ (routed [(0, desk), (1, entry)]).rt.routes, p.2.dst < 72 := by decide

/-- A FADING batch of one member at count 3, and a stopping voice that fades and comes back from a pause. -/
def fading : Batch := { batch with phase := .fading, members := [⟨0, none, .step 0⟩], n := 3 }
def boundaryBound : State :=
  { routed [(0, { desk with state := .retiring, batch := some 7 })] with
    ru := ⟨[(7, fading)], 20⟩
    ve := { ready.ve with voices := [(31, { Voice.init with state := .stopping, claimant := some (.running 3 0 7)
                                                            fade := some ⟨.step 0, .off, 10, 9, none⟩, ramp := some ⟨5, 500, true, true⟩ })] } }

theorem test_meets_FrameBoundaryAdvancesBatchesAndVoices :
    boundaryBound.ve.voices.rising = true ∧ (routeAt boundaryBound 0).map (·.batch) = some (some 7) ∧
    (∃ t, exec .frameBoundary boundaryBound = .next t ∧ t.ru.batches.find 7 = some { fading with n := 4 }) ∧
    (fading.members.map (·.handle)).Nodup ∧ (voiceOf boundaryBound 31).state = .stopping ∧ boundaryBound.ss.stopped = false ∧
    (voiceOf boundaryBound 31).ramp = some ⟨5, 500, true, true⟩ ∧ (voiceOf ready 31).ramp = none ∧ (voiceOf ready 31).fade = none :=
  ⟨by decide, by decide, ⟨_, rfl, by decide +kernel⟩, by decide⟩

theorem test_meets_FrameBoundaryAdvancesCounts :
    house.cq.lists.rising = true ∧ house.ef.inputs.rising = true ∧ ∃ t, exec .frameBoundary house = .next t := ⟨rfl, rfl, _, rfl⟩

theorem test_meets_FrameBoundarySetsStatusFlags : RecordsOrdered house ∧ routeAt house 0 = some desk ∧ 3 < 4 :=
  ⟨house_sound.ordered, rfl, by decide⟩

theorem test_meets_MeterWindowsAndTimersEnd :
    (let s := { ready with le := { ready.le with windowDue := true, peaks := [(10, 8388607)] } }
     s.le.windowDue = true ∧ s.le.peaks.rising = true ∧ s.le.peaks.read 0 9 = 0 ∧ 2 ^ 22 ≤ s.le.peaks.read 0 10 ∧ s.le.peaks.read 0 10 < 2 ^ 23) ∧
    10 ≤ timerOf { ready with ef := { ready.ef with timers := [(0, 10)] } } 0 ∧
    60000 ≤ timerOf { ready with ef := { ready.ef with timers := [(3, 60000)] } } 3 := by decide

/-! ### Cue lists -/

def cueOfThree (n : Nat) : CueArgs := ⟨3, n, 0, 0, 600001, 31, 1, true, [⟨0, .setc 31 true, false⟩]⟩

theorem test_meets_CuesAndStandbysAreSet :
    (Taken ha (standing CueList.init) (begin 1 (standing CueList.init)) ∧
      badCue (cueOfThree 999998) = false ∧ badActions (cueOfThree 999998).actions = false ∧ cueOf (standing CueList.init) 3 999998 = none ∧
      cueCount (standing CueList.init) < 2048 ∧ actionCount (standing CueList.init) + 1 ≤ 8192) ∧
    (badCue (cueOfThree 999999) = false ∧ cueOf (standing CueList.init) 3 999999 = some aCue ∧ aCue.prot = false) ∧
    ((cueOf (begin 1 (standing CueList.init)) 3 999999).isSome = true ∧ (listOf (standing CueList.init) 3).standby = some 999999) ∧
    (let s := { ready with cq := ⟨[(3999999, aCue)], []⟩ }
     (cueOf s 3 999999).isSome = true ∧ (listOf s 3).standby ≠ some 999999 ∧ (listOf s 3).state = .empty) :=
  ⟨⟨taken _ _ rfl rfl, by decide⟩, by decide⟩

/-- A list that permits GO from the prompt desk, at its guard. -/
def prompted : State := standing { CueList.init with promptGo := true, sinceGo := some 300 }

/-- List 3 at cue 0, cue 999999 following it by a FOLLOW trigger, with eight running records. -/
def crewed : State :=
  { ready with cq := ⟨[(3000000, aCue), (3999999, { aCue with trigger := .follow, delay := 5 })], [(3, { CueList.init with
      state := .primed, standby := some 0, takes := 8, running := (List.range 8).map (fun k => ⟨1, k, 1, 0, [], false⟩) })]⟩ }
/-- List 3 at its last cue, whose qualifier is FALSE. -/
def doubted : State :=
  { ready with cq := ⟨[(3999999, { aCue with qual := 31 })], [(3, { CueList.init with state := .primed, standby := some 999999 })]⟩ }

theorem test_meets_GosTakeTheStandbyCue :
    (Taken hb prompted (begin 1 prompted) ∧ (listOf prompted 3).promptGo = true ∧ standbyCue prompted 3 = some (999999, aCue) ∧
      GuardPassed (listOf prompted 3)) ∧
    (Sound (begin 1 prompted) ∧ condOf (begin 1 prompted) aCue.qual = true ∧
      ∀ r ∈ (listOf (begin 1 prompted) 3).running, r.take ≠ (listOf (begin 1 prompted) 3).takes) ∧
    (Sound crewed ∧ condOf crewed aCue.qual = true ∧ (listOf crewed 3).running.length = 8 ∧ crewed.ef.depth < 5 ∧
      cueFrom crewed 3 1 = some 999999 ∧ ∀ r ∈ (listOf crewed 3).running, r.take ≠ (listOf crewed 3).takes) ∧
    (Sound doubted ∧ standbyCue doubted 3 = some (999999, { aCue with qual := 31 }) ∧ condOf doubted 31 = false ∧ doubted.ef.depth < 5 ∧
      cueFrom doubted 3 1000000 = none) ∧
    (∃ t, Delivered (.go 3) ⟨64, 1, 1, []⟩
      (flying 64 { standing CueList.init with ef := { ready.ef with goLinks := [(3, 64)] } }) t) ∧
    ((listOf (standing { CueList.init with trigger := some ⟨.continue, .counting 0, 0, true⟩ }) 3).trigger =
        some ⟨.continue, .counting 0, 0, true⟩ ∧
      standbyCue (standing { CueList.init with trigger := some ⟨.continue, .counting 0, 0, true⟩ }) 3 = some (999999, aCue)) ∧
    (Taken ha ready (begin 1 ready) ∧ Taken hb ready (begin 1 ready) ∧ (listOf ready 3).promptGo = false ∧ (listOf ready 3).standby = none) ∧
    Taken ha (halted ready) (begin 1 (halted ready)) ∧
    ∃ n ∈ (listOf (standing { CueList.init with sinceGo := some 299 }) 3).sinceGo,
      n < (listOf (standing { CueList.init with sinceGo := some 299 }) 3).guard :=
  ⟨⟨taken _ _ rfl rfl, by decide, by decide, by unfold GuardPassed; decide⟩, ⟨sound_of_check (by decide +kernel), by decide⟩,
    ⟨sound_of_check (by decide +kernel), by decide +kernel⟩, ⟨sound_of_check (by decide +kernel), by decide +kernel⟩,
    ⟨_, delivered _ _ _ (by decide +kernel)⟩, by decide, ⟨taken _ _ rfl rfl, taken _ _ rfl rfl, by decide⟩, taken _ _ rfl rfl, by decide⟩

/-- List 3 with a running record of take 0: two fades, one late start, label 7 on voice 31. -/
def runs (fades late : Nat) (taking : Bool) : CueList := { CueList.init with running := [⟨999998, 0, fades, late, [(7, 31)], taking⟩], takes := 1 }
def starting : Voice := { Voice.init with state := .primed, claimant := some (.running 3 0 7), startDue := true, starting := true, fadeIn := 10 }
def by3 : StartedBy := ⟨3, 0⟩

theorem test_meets_SettlementsCompleteRunningRecords :
    (let rs := (runs 1 0 false).running.map (fun r => if r.take = 0 then { r with fades := r.fades - 1 } else r)
     ∃ r ∈ rs.find? (fun r => r.take == 0), r.fades = 0 ∧ r.late = 0 ∧ r.taking = false) ∧
    (∀ r ∈ (runs 2 1 true).running, r.fades ≠ 0 ∨ r.late ≠ 0 ∨ r.taking = true) ∧
    (let f := { fade (.step 0) .off 1 1 with startedBy := some by3 }
     routeAt (routed [(1023, { desk with fade := some f })]) 1023 = some { desk with fade := some f } ∧ 0 < f.n ∧ f.dur ≤ f.n) ∧
    (voiceOf (voiced starting) 31).starting = true ∧ startsNow (voiced starting).ss.stopped (voiceOf (voiced starting) 31) = true ∧
    (voiceOf (voiced starting) 31).claimant = some (.running 3 0 7) := by decide

/-! ### Cue actions -/

/-- The GO of take 0 of list 3. -/
def go3 : GoContext := ⟨3, 0, aCue⟩
/-- `s` with the running record of that GO. -/
def running (s : State) : State := { s with cq := { s.cq with lists := [(3, runs 2 1 true)] } }
def labelled (v : Voice) : State := running (voiced { v with claimant := some (.running 3 0 7) })

theorem test_meets_RouteActionsActOnTheTable :
    ((isVoice 64 = true ∧ (voiceOf ready 0).state = .free ∧ labelVoice ready go3 7 = none ∧
       labelVoice (labelled { Voice.init with state := .playing }) go3 7 = some 31) ∧
     (match resolveSource ready go3 (.num 64) with | .error .novoice => true | _ => false) = true ∧
     (match resolveSource ready go3 (.num 10) with | .ok 10 => true | _ => false) = true) ∧
    (findKey (routed [(0, desk)]) 10 2 = some 0 ∧ routeAt (routed [(0, desk)]) 0 = some desk ∧ desk.state = .live ∧ desk.fade = none) ∧
    (findKey ready 10 2 = none ∧ generalCount ready < 944 ∧ destCount ready 2 < 64 ∧ routeAt ready 0 = none ∧ 944 ≤ generalCount fullTable ∧
      generalCount fullDest < 944 ∧ 64 ≤ destCount fullDest 71) ∧
    ((routed [(0, desk)]).rt.routes.rising = true ∧ routeAt (routed [(0, retiring)]) 0 = some retiring ∧ retiring.state = .retiring) ∧
    (let mine : Route := { desk with owner := .cue 3 }
     let s := running (routed [(0, mine), (1, { desk with src := 11 }), (1023, { mine with src := 12, fade := some (fade (.step 0) .off 2 1) })])
     s.rt.routes.rising = true ∧ routeAt s 0 = some mine ∧ mine.owner = .cue go3.list ∧ mine.state = .live ∧
       ∀ p ∈ s.rt.routes, ∀ f ∈ p.2.fade, f.startedBy = none) := by decide +kernel

theorem test_meets_PlaybackActionsActOnVoices :
    (labelVoice (labelled { Voice.init with state := .primed, fadeIn := 10 }) go3 7 = some 31 ∧
      (voiceOf (labelled { Voice.init with state := .primed, fadeIn := 10 }) 31).state = .primed ∧
      (voiceOf (labelled { Voice.init with state := .preloading }) 31).state ≠ .primed ∧
      (labelled { Voice.init with state := .primed }).ve.waits = [] ∧ (labelled { Voice.init with state := .primed }).rl.calls = []) ∧
    (labelVoice (running clipped) go3 0 = none ∧ clipOf ready 511 = none ∧ clipOf clipped 511 = some aClip ∧ (voiceOf clipped 0).state = .free ∧
      ∀ n, n < 32 → (voiceOf { clipped with ve := { clipped.ve with
        voices := (List.range 32).map (fun n => (n, { Voice.init with state := .paused, claimant := some (.running 2 n 0) })) } } n).state ≠ .free) ∧
    (let s := labelled { Voice.init with state := .playing, clip := 511 }
     s.ve.voices.rising = true ∧ (voiceOf s 31).state = .playing ∧ (voiceOf s 31).claimant = some (.running 3 0 7) ∧ (voiceOf s 31).clip = 511) ∧
    (let v : Voice := { Voice.init with state := .stopping, mode := .vamp, pos := 4, phase := .inLoop }
     loopOf aLoop v = some (3, 6) ∧ v.phase ≠ .tail ∧ v.exitPending = false ∧ loopOf aLoop { v with mode := .once } = none) := by decide +kernel

theorem test_meets_FoldbackAndCallActionsAct :
    (entryOf (routed [(5, entry)]) 3 12 = some (5, entry) ∧ entry.state = .live ∧ entry.fade = none ∧ 12 ≠ ready.ss.stopSource ∧
      entryOf (routed [(5, { entry with state := .retiring })]) 3 12 = some (5, { entry with state := .retiring })) ∧
    (entryOf ready 3 12 = none ∧ generalCount ready < 944 ∧ destCount ready 27 < 64 ∧ routeAt ready 0 = none ∧ 944 ≤ generalCount fullTable ∧
      entryOf ready 3 64 = none ∧ (voiceOf ready 0).state = .free ∧
      (let s := routed ((List.range 64).map (fun n => (n, { entry with src := n + 30 })))
       entryOf s 3 12 = none ∧ generalCount s < 944 ∧ 64 ≤ destCount s 27)) ∧
    (placeRefusal ready (.live 99) = some .reserved ∧ placeRefusal ready (.recorded 511) = some .notfound ∧ placeRefusal ready (.live 96) = none ∧
      resolveZones ready 0 0 = [] ∧ resolveZones ready 0x7FFF 0 ≠ [] ∧ callOf (called aCall) 1 = none ∧ (callOf (called aCall) 0).isSome = true) := by
  decide +kernel

theorem test_meets_OtherActionsActAndAreCounted :
    (condOf ready 31 = false ∧ condOf ready 0 = true) ∧
    (∃ u x y, runAction go3 (.setc 31 true) ready = (u, .done x y)) ∧ (∃ u c, runAction go3 (.play 0 511 0 0 0 0) ready = (u, .failed c)) ∧
    (30 ≠ 31 ∧ 31 ≤ 31) ∧ ready.ef.depth < 5 ∧ 5 ≤ ({ ready.ef with depth := 5 } : EventFabric).depth ∧
    (∀ l c o m d f, ActionKind.event 0 ≠ .play l c o m d f) :=
  ⟨by decide, ⟨_, _, _, rfl⟩, ⟨_, _, rfl⟩, by decide, by decide, by decide, fun l c o m d f h => by cases h⟩

/-! ### Conditions, links, clips, sample memory, voices -/

def presetOf7 : PresetArgs := ⟨7, some (1, 511), some 0x7FFF, some 0xFF, some 2, some (-1025), some 600001, some 64, some 65⟩

theorem test_meets_ConditionsAndLinksAreSet :
    (Taken ha ready (begin 1 ready) ∧ Taken hb ready (begin 1 ready) ∧ guarded (begin 1 ready) = false) ∧
    (∃ t, Delivered (.cond 7) ⟨64, 1, 1, []⟩ (flying 64 { ready with cf := { ready.cf with links := [(7, ⟨64, 31, true⟩)] } }) t) ∧
    badPreset presetOf7 = false :=
  ⟨⟨taken _ _ rfl rfl, taken _ _ rfl rfl, rfl⟩, ⟨_, delivered _ _ _ (by decide +kernel)⟩, by decide⟩

def clipArgs : ClipArgs := ⟨511, 0, 4800, none, 257, true, true⟩

theorem test_meets_ClipsAndSamplesAreWritten :
    (Taken ha clipped (begin 1 clipped) ∧ badClip clipArgs = false ∧ clipArgs.addr + clipArgs.len ≤ clipped.smp.size ∧
      clipOf clipped 511 = some aClip ∧ holders clipped 511 = 0 ∧ aClip.prot = false) ∧
    (let s := { clipped with ve := { clipped.ve with voices := [(0, { Voice.init with state := .playing, clip := 511 })] } }
     canTake s .a = true ∧ s.portA.requests = [] ∧ clipOf (begin 1 s) 511 = some aClip ∧ 0 < holders (begin 1 s) 511) ∧
    (Taken ha ready (begin 1 ready) ∧ 16777215 + [(5 : Sample)].length ≤ (begin 1 ready).smp.size ∧ guarded (begin 1 ready) = false) ∧
    ({ ready with smp := { ready.smp with transfer := some (.write ⟨0, [5], 1⟩) } } : State).smp.transfer = some (.write ⟨0, [5], 1⟩) :=
  ⟨⟨taken _ _ rfl rfl, by decide⟩, by decide, ⟨taken _ _ rfl rfl, by decide⟩, rfl⟩

theorem test_meets_TransfersFillVoiceBuffers :
    (({ voiced Voice.init with smp := { ready.smp with transfer := some (.fetch 31 0 1024 none false) } } : State).smp.transfer =
      some (.fetch 31 0 1024 none false) ∧
    ({ voiced Voice.init with smp := { ready.smp with transfer := some (.fetch 31 0 1024 (some 7) true) } } : State).smp.transfer =
      some (.fetch 31 0 1024 (some 7) true)) ∧
    (let v : Voice := { Voice.init with mode := .vamp, exitAt := some 4 }
     v.mode ≠ .once ∧ aLoop.loop = some (3, 6) ∧ 3 < 6 ∧ v.offset < 6 ∧ 0 < 4 ∧ 2 + 1 < 4 ∧ aClip.loop = none) ∧
    (wantedClass { clipped with ve := { clipped.ve with voices := [(31, { Voice.init with state := .preloading, clip := 511 })] } } 31 = some 3 ∧
      wantedClass { clipped with ve := { clipped.ve with voices := [(31, { Voice.init with state := .playing, clip := 511 })] } } 31 = some 1 ∧
      wantedClass clipped 31 = none ∧ clipped.smp.requests.find 31 = none ∧ clipped.smp.transfer = none) ∧
    (let p : SamplePort := { ready.smp with requests := [(0, 2), (5, 1), (31, 1)], pointers := [(1, 5)] }
     p.transfer = none ∧ p.requests.find 31 = some 1 ∧ (31 + 31 * (p.pointers.read 31 1 + 1)) % 32 = 25 ∧ (5 + 31 * (p.pointers.read 31 1 + 1)) % 32 = 31) ∧
    (let p : SamplePort := { ready.smp with write := some ⟨0, [5], 1⟩ }
     p.transfer = none ∧ p.requests.find 0 = none ∧ p.write = some ⟨0, [5], 1⟩) := by decide +kernel

theorem test_meets_VoicesStartAndRamp :
    ((voiceOf (voiced starting) 31).starting = true ∧ startsNow (voiced starting).ss.stopped (voiceOf (voiced starting) 31) = true) ∧
    (let v : Voice := { Voice.init with state := .pausing, ramp := some ⟨500, 500, false, false⟩ }
     (voiceOf (voiced v) 31).ramp = some ⟨500, 500, false, false⟩ ∧ (voiceOf (voiced v) 31).state = .pausing) ∧
    (let v : Voice := { Voice.init with state := .playing, ramp := some ⟨0, 500, true, false⟩ }
     (voiceOf (voiced v) 31).ramp = some ⟨0, 500, true, false⟩) := by decide

def ended : Voice := { Voice.init with state := .playing, claimant := some (.running 2 0 0), ending := true, atEnd := true }
/-- Every voice in use, voice 31 at its clip end, and two labels waiting, the first of a cue that has no PLAY of it. -/
def hurried : State :=
  { clipped with
    cq := ⟨[(3999999, playCue)], [(3, { CueList.init with state := .preloading, standby := some 999999 })]⟩
    ve := { clipped.ve with
      voices := (List.range 31).map (fun n => (n, { ended with claimant := some (.running 1 n 0), ending := false })) ++ [(31, ended)]
      waits := [⟨3, 999999, 6⟩, ⟨3, 999999, 7⟩] } }
/-- A recorded call of zones 0 and 1, ACTIVE, whose voice has reached its clip end; nothing else. -/
def toldOut : State :=
  { clipped with
    rt := ⟨[(0, { programme with dst := 56 }), (4, { desk with src := 95, dst := 57, owner := .relay })], []⟩
    ve := { clipped.ve with voices := [(31, { ended with claimant := some (.call 0), clip := 511 })] }
    rl := { ready.rl with
      zones := [(0, { Zone.init with enabled := true, holder := some 0 }), (1, { Zone.init with holder := some 0 })]
      calls := [(0, { aCall with kind := .recorded 511, active := true, voice := some 31, started := true, routes := [1] })], order := [0] } }

theorem test_meets_VoicesEndFree :
    (hurried.rt.routes.rising = true ∧ (voiceOf hurried 31).ending = true ∧ (voiceOf hurried 31).atEnd = true ∧
      (voiceOf hurried 31).claimant = some (.running 2 0 0)) ∧
    (hurried.ve.waits = [⟨3, 999999, 6⟩] ++ ⟨3, 999999, 7⟩ :: [] ∧ waitingPlay hurried ⟨3, 999999, 6⟩ = none ∧
      (waitingPlay hurried ⟨3, 999999, 7⟩).map (fun x => (x.2.1, x.2.2.1)) = some (7, 511) ∧ clipOf hurried 511 = some aClip ∧
      ∀ m, m < 32 → (voiceOf hurried m).state ≠ .free) ∧
    ((voiced ended).ve.waits = [] ∧ (voiced ended).rl.calls = []) ∧
    (Sound toldOut ∧ (voiceOf toldOut 31).claimant = some (.call 0) ∧ (callOf toldOut 0).map (·.voice) = some (some 31) ∧ toldOut.ve.waits = []) ∧
    (let v : Voice := { Voice.init with state := .stopping, fade := some ⟨.step 0, .off, 10, 10, none⟩ }
     (voiceOf (voiced v) 31).fade = some ⟨.step 0, .off, 10, 10, none⟩) :=
  ⟨by decide +kernel, by decide +kernel, by decide, ⟨sound_of_check (by decide +kernel), by decide⟩, rfl⟩

/-! ### Foldback and the panel link -/

def mixArgs : MixArgs := ⟨31, some 193, some (-129), some 65, some [100, 12, 12], some 1, some true⟩
def based (mix src : Nat) : FbArgs := ⟨mix, src, .step (-64), some ⟨1000, 0⟩, some true, true⟩

theorem test_meets_MixesAndBasesAreConfigured :
    (Taken ha ready (begin 1 ready) ∧ badMix mixArgs = false ∧ ready.ss.stopped = false ∧ guarded ready = false ∧
      (routed [(0, entry)]).rt.routes.rising = true) ∧
    (badBase (based 31 100) = false ∧ findKey ready 100 55 = none ∧ generalCount ready < 944 ∧ destCount ready 55 < 64 ∧ routeAt ready 0 = none ∧
      100 ≠ ready.ss.stopSource) ∧
    (Taken ha (routed [(5, entry)]) (begin 1 (routed [(5, entry)])) ∧
      mixEntry (begin 1 (routed [(5, entry)])) 3 12 = some (5, entry) ∧ entry.state = .live) ∧
    mixEntry (begin 1 (routed [(5, { entry with state := .retiring })])) 3 12 = some (5, { entry with state := .retiring }) ∧
    mixEntry (begin 1 ready) 3 12 = none :=
  ⟨⟨taken _ _ rfl rfl, by decide⟩, by decide, ⟨taken _ _ rfl rfl, by decide⟩, by decide⟩

theorem test_meets_PanelsAreEnrolledPolledAndHeard :
    (Taken ha ready (begin 1 ready) ∧
      ∀ b, b ≤ 32 → b ≠ 32 → (panelOf (begin 1 ready) b).enrolled = true → (panelOf (begin 1 ready) b).mix ≠ some 31) ∧
    (Taken ha (panelled present) (begin 1 (panelled present)) ∧ (panelOf (panelled present) 7).enrolled = true) ∧
    ((∀ a, a ≤ 32 → (panelOf ready a).enrolled = false) ∧ ∃ a, a ≤ 32 ∧ (panelOf (panelled present) a).enrolled = true) ∧
    ((panelled present).fb.polling = some 7 ∧ ready.fb.polling ≠ some 7 ∧ (panelOf (panelled { present with presence := .lost }) 7).presence ≠ .present ∧
      (panelOf (panelled { present with misses := 6 }) 7).misses < 7 ∧ (panelOf (panelled { present with misses := 7 }) 7).misses = 7 ∧
      present.enrolled = true ∧ present.presence = .present ∧ (panelled present).rt.routes.rising = true) ∧
    panelFrame [7, 0, 0, 0] = none ∧ panelFrame ([7, 0] ++ bytesOf 2 (crc16 [7, 0]).toNat) = some (7, none) ∧
    (panelOf (panelled { present with presence := .lost, misses := 8 }) 7).presence = .lost ∧
    (panelFrame ([7, 1, 9, 5, 3, 0, 0, 0, 0, 0] ++ bytesOf 2 (crc16 [7, 1, 9, 5, 3, 0, 0, 0, 0, 0]).toNat) = some (7, some (9, .recall 3)) ∧
      (panelOf (panelled { present with lastSeq := some 9 }) 7).lastSeq = some 9) :=
  ⟨⟨taken _ _ rfl rfl, by intro b _ _ h; exact absurd (show false = true from h) (by decide)⟩,
    ⟨taken _ _ rfl rfl, by decide⟩, ⟨by intro a _; rfl, 7, by decide⟩, by decide, by decide +kernel⟩

def mixed : State :=
  { panelled present with
    rt := ⟨[(0, entry)], []⟩, fb := { (panelled present).fb with mixes := [(3, { Mix.init with adjustable := [12] })] } }

theorem test_meets_PanelRequestsActOrAreDenied :
    (mixed.fb.polling = some 7 ∧ (panelOf mixed 7).lastSeq ≠ some 9 ∧ (panelOf mixed 7).mix = some 3) ∧
    ((mixOf mixed 3).adjustable.contains 12 = true ∧ liveEntry mixed 3 12 = some (0, entry) ∧ (16 : Int) ≤ 16 ∧ (-16 : Int) ≤ -16) ∧
    mixed.rt.routes.rising = true ∧ 31 ≠ 3 ∧ (mixOf mixed 3).adjustable.contains 13 = false ∧ liveEntry { mixed with rt := ⟨[], []⟩ } 3 12 = none ∧
    (31 < 32 ∧ 100 < 101 ∧ (16 : Int) < 17) ∧ (panelOf (panelled { present with mix := none, presence := .lost }) 7).mix = none ∧
    panelFrame ([7, 1, 9, 7, 3, 0, 0, 0, 0, 0] ++ bytesOf 2 (crc16 [7, 1, 9, 7, 3, 0, 0, 0, 0, 0]).toNat) = some (7, some (9, .other 7)) := by
  decide +kernel

/-! ### Relay zones and calls -/

def zoneArgs (on : Option Bool) : ZoneArgs := ⟨14, on, some (-1025), none, none, some 501, some 5001, some (some 4), some 0xFF, some 3⟩
def zoned : State :=
  { ready with rt := ⟨[(0, { programme with dst := 70 })], []⟩, rl := { ready.rl with zones := [(14, { Zone.init with enabled := true })] } }

theorem test_meets_ZonesAreConfigured :
    (Taken ha ready (begin 1 ready) ∧ badZone (zoneArgs (some true)) = false ∧ badZone { zoneArgs none with set := some 4 } = true ∧
      guarded (begin 1 ready) = false ∧ enables (begin 1 ready) (zoneArgs (some true)) = true ∧ programmeRoute (begin 1 ready) 14 = none ∧
      generalCount (begin 1 ready) < 944 ∧ routeAt (begin 1 ready) 0 = none ∧ ready.rt.routes.rising = true ∧ ready.ef.outputs.rising = true) ∧
    (Taken ha fullTable (begin 1 fullTable) ∧ 944 ≤ generalCount (begin 1 fullTable) ∧ programmeRoute (begin 1 fullTable) 14 = none ∧
      (zoneOf fullTable 14).enabled = false) ∧
    (let s := { ready with rt := ⟨[(0, { programme with dst := 70, state := .retiring, fade := some (fade (.step 0) .off 9 1) })], []⟩ }
     canTake s .a = true ∧ programmeRoute (begin 1 s) 14 = some 0 ∧ (zoneOf s 14).enabled = false) ∧
    (canTake zoned .a = true ∧ disables (begin 1 zoned) (zoneArgs (some false)) = true ∧ programmeRoute (begin 1 zoned) 14 = some 0 ∧
      programme.state = .live) ∧
    (enables (begin 1 zoned) { zoneArgs none with set := none } = false ∧ disables (begin 1 zoned) { zoneArgs none with set := none } = false ∧
      (zoneOf zoned 14).enabled = true) ∧
    (canTake house .a = true ∧ routeAt house 4 = some { desk with src := 96, dst := 57, owner := .relay } ∧ (zoneOf house 0).lamp = some 15 ∧
      house.rt.routes.rising = true ∧ house.ef.outputs.rising = true) :=
  ⟨⟨taken _ _ rfl rfl, by decide⟩, ⟨taken _ _ rfl rfl, by decide +kernel⟩, by decide, by decide⟩

def callArgs (zones : BitVec 16) : CallArgs := ⟨0, 96, zones, 0, 2, -1025, 600001⟩
/-- `house`, with a preset that names its ACTIVE call, and a delivery to the preset's release link. -/
def releasing : State :=
  flying 64 { house with rl := { house.rl with presets := [(7, { CallPreset.init with release := 64, placed := some (0, 7) })] } }

/-- Sixteen calls wait. -/
def calledOut : State :=
  { ready with rl := { ready.rl with calls := (List.range 16).map (fun n => (n, { aCall with seq := some n })), order := List.range 16, seq := 16 } }

theorem test_meets_CallsAreQueuedAndLeave :
    (Taken hb calledOut (begin 1 calledOut) ∧ 16 ≤ calledOut.rl.order.length ∧ (1 < 2 ∧ 95 < 96 ∧ 99 < 100 ∧ 511 < 512 ∧
        (callArgs 0x8000).zones.getLsbD 15 = true ∧ (callArgs 0x7FFF).zones.getLsbD 15 = false ∧ (callArgs 0).priority ≤ 2) ∧
      (callArgs 0).kind = 0 ∧ (callArgs 0).unit = 96 ∧ 96 ≠ calledOut.ss.stopSource ∧ 99 = calledOut.ss.stopSource ∧ clipOf calledOut 511 = none) ∧
    (16 < 17 ∧ Taken hb ready (begin 1 ready) ∧ callOf ready 15 = none ∧ Taken hb closed (begin 1 closed) ∧ callOf closed 16 ≠ none ∧
      callOf calledOut 15 = some { aCall with seq := some 15 } ∧ some 15 ≠ some 14) ∧
    (Taken hb (called aCall) (begin 1 (called aCall)) ∧ badCall (callArgs 0x7FFF) = false ∧
      placeRefusal (begin 1 (called aCall)) (.live 96) = none ∧ callOf (called aCall) 1 = none ∧
      resolveZones (begin 1 (called aCall)) 0x7FFF 0 ≠ [] ∧ resolveZones (begin 1 (called aCall)) 0 0 = []) ∧
    (∃ t, Delivered (.place 7) ⟨64, 1, 1, []⟩
      (flying 64 { ready with rl := { ready.rl with presets := [(7, { CallPreset.init with zones := 1, place := 64 })] } }) t) ∧
    (resolveZones ready 1 0 ≠ [] ∧ placeRefusal ready CallPreset.init.kind = none) ∧
    (∃ t, Delivered (.release 7) ⟨64, 1, 1, []⟩ releasing t ∧ (callPresetOf t 7).placed = some (0, 7) ∧
      callOf t 0 = some { aCall with active := true, routes := [1] } ∧ Sound t) ∧
    (∃ t, Delivered (.release 7) ⟨64, 1, 1, []⟩ (flying 64 { called aCall with
      rl := { (called aCall).rl with presets := [(7, { CallPreset.init with release := 64, placed := some (0, 7) })] } }) t) ∧
    (Taken hb house (begin 1 house) ∧ callOf house 0 = some { aCall with active := true, routes := [1] } ∧ aCall.seq = some 7 ∧
      isRecorded aCall = false ∧ Sound (begin 1 house)) ∧
    (callOf (called aCall) 0 = some aCall ∧ aCall.active = false ∧ isRecorded { aCall with kind := .recorded 511 } = true) ∧
    (let c : Call := { aCall with wait := 100 }
     callOf (called c) 0 = some c ∧ c.active = false ∧ 0 < c.maxWait ∧ c.maxWait ≤ c.wait) :=
  ⟨⟨taken _ _ rfl rfl, by decide +kernel⟩, ⟨by decide, taken _ _ rfl rfl, rfl, taken _ _ rfl rfl, by decide⟩,
    ⟨taken _ _ rfl rfl, by decide⟩, ⟨_, delivered _ _ _ (by decide +kernel)⟩, by decide,
    ⟨_, delivered _ _ _ (by decide +kernel), by decide +kernel, by decide +kernel, sound_of_check (by decide +kernel)⟩,
    ⟨_, delivered _ _ _ (by decide +kernel)⟩, ⟨taken _ _ rfl rfl, by decide, rfl, rfl, sound_of_check (by decide +kernel)⟩, by decide, by decide⟩

/-- The QUEUED call of `house` takes zone 1 from its ACTIVE call, whose other zone is left free. -/
theorem test_meets_CallsActivateAndPreempt :
    Sound house ∧ (let c : Call := { aCall with seq := some 8, zones := [1, 2], priority := 2 }
      callOf house 1 = some c ∧ c.active = false ∧ mayActivate house c = true ∧ generalCount house + c.zones.length ≤ 944 ∧
      ∀ z ∈ c.zones, destCount house (56 + z) < 64) ∧
    (let x : Call := { aCall with active := true, routes := [1] }
     callOf house 0 = some x ∧ x.active = true ∧ x.priority < 2 ∧ (∃ z ∈ x.zones, z ∈ [1, 2]) ∧ 0 ∉ [1, 2] ∧ 0 ∈ x.zones ∧ x.voice = none) ∧
    (∀ p ∈ house.rt.routes, p.2.owner = .relay → p.2.src ≠ pgmt → p.2.fade = none ∧ p.2.batch = none) ∧ house.ef.depth < 5 :=
  ⟨house_sound, by decide +kernel⟩

/-- Four QUEUED calls: one that may not activate, first by its priority; a recorded and a LIVE one that share zone 1; a recorded one. -/
def contested : State :=
  { clipped with rl := { ready.rl with
      calls := [(0, { aCall with seq := some 9, zones := [1, 2] }), (1, { aCall with seq := some 8, kind := .recorded 511 }),
        (2, { aCall with kind := .live 99, zones := [5], priority := 2 }), (3, { aCall with seq := some 10, kind := .recorded 511, zones := [7] })]
      order := [2, 1, 0, 3], seq := 11 } }

/-- R153: of two that share a zone at one priority the earlier is taken, and the later is left QUEUED as it was. -/
theorem test_scan_order : (callOf (scan contested) 1).map (·.active) = some true ∧
    callOf (scan contested) 0 = some { aCall with seq := some 9, zones := [1, 2] } := by decide +kernel

theorem test_meets_ScansActivateWhatMayActivate :
    (Sound contested ∧ queuedCalls contested = [2] ++ 1 :: [0, 3] ∧
      (let c : Call := { aCall with seq := some 8, kind := .recorded 511 }
       callOf contested 1 = some c ∧ c.active = false ∧ mayActivate contested c = true ∧
        (∀ m ∈ [2], ∀ x, callOf contested m = some x → mayActivate contested x = false) ∧
        ∀ m x, m ≠ 1 → callOf contested m = some x → x.active = false →
          (∃ z ∈ x.zones, z ∈ c.zones) ∨ (isRecorded c = true ∧ isRecorded x = true) →
          x.priority < c.priority ∨ (x.priority = c.priority ∧ [1, m].Sublist contested.rl.order)) ∧
      callOf contested 0 = some { aCall with seq := some 9, zones := [1, 2] } ∧ 1 ∈ [1, 2]) ∧
    (Sound house ∧ queuedCalls (called aCall) = [0] ∧ callOf (called aCall) 0 = some aCall ∧ mayActivate (called aCall) aCall = true ∧
      (activate 0 (called aCall)).2 = false) ∧
    (∀ k c, k ∈ queuedCalls ready → callOf ready k = some c → mayActivate ready c = false) ∧
    (let s : State := { house with rl := { house.rl with calls := [(0, { aCall with active := true, routes := [1] }), (1, { aCall with seq := some 8 })] } }
     Sound s ∧ callOf (scan s) 1 = some { aCall with seq := some 8 }) :=
  ⟨⟨sound_of_check (by decide +kernel), by decide +kernel, ⟨rfl, rfl, by decide +kernel,
      fun m hm x hx => by
        obtain rfl := List.mem_singleton.1 hm
        obtain rfl := Option.some.inj hx
        decide +kernel,
      fun m x hm hx ha hr =>
        (by decide +kernel : ∀ p ∈ contested.rl.calls, p.1 ≠ 1 → p.2.active = false →
          (∃ z ∈ p.2.zones, z ∈ [0, 1]) ∨ (true = true ∧ isRecorded p.2 = true) →
          p.2.priority < 1 ∨ (p.2.priority = 1 ∧ [1, p.1].Sublist contested.rl.order)) (m, x) (Table.mem_of_find hx) hm ha hr⟩, rfl, by decide⟩,
    ⟨house_sound, by decide +kernel⟩, fun _ _ hk => (by cases hk), sound_of_check (by decide +kernel), by decide +kernel⟩

/-! ### Events, contacts, watches -/

theorem test_meets_RaiseEventEmitsAHostEvent : Taken ha ready (begin 1 ready) ∧ Taken hb ready (begin 1 ready) :=
  ⟨taken _ _ rfl rfl, taken _ _ rfl rfl⟩

def watchArgs : WatchArgs := ⟨15, 0, 100, -1473, 1, 0, 0, 65, 3, some (20, 21)⟩

theorem test_meets_ContactsAndWatchesAreSet : guarded (begin 1 ready) = false ∧ Taken ha ready (begin 1 ready) ∧ badWatch watchArgs = false :=
  ⟨rfl, taken _ _ rfl rfl, by decide⟩

def watching (m : WatchMode) : State :=
  flying 64 { ready with ef := { ready.ef with watches := [(15, ⟨.meter 100 (-640) (-1), 64, m, some (20, 21), none⟩)] } }

theorem test_meets_DeliveriesReachTheirConsumers :
    (∃ t, Delivered (.fn 7) ⟨132, 1, 1, []⟩ (flying 132 { ready with ef := { ready.ef with fns := [(7, ⟨132, 0x200, 0⟩)] } }) t) ∧
    (∃ t, Delivered (.watch 15) ⟨64, 1, 1, []⟩ (watching .off) t ∧ (watchOf t 15).mode = .off) ∧
    (∃ t, Delivered (.watch 15) ⟨64, 1, 1, []⟩ (watching .once) t ∧ (watchOf t 15).mode ≠ .off ∧ (watchOf t 15).pair = some (20, 21) ∧
      t.ef.depth < 5) ∧
    ∃ t, Delivered (.trigger 3) ⟨3, 1, 1, []⟩ (flying 3 (standing CueList.init)) t ∧ standbyCue t 3 = some (999999, aCue) :=
  ⟨⟨_, delivered _ _ _ (by decide +kernel)⟩, ⟨_, delivered _ _ _ (by decide +kernel), rfl⟩,
    ⟨_, delivered _ _ _ (by decide +kernel), by decide +kernel⟩, _, delivered _ _ _ (by decide +kernel), by decide +kernel⟩

def lined (c : ContactIn) : State := { ready with ef := { ready.ef with inputs := [(15, c)] } }

theorem test_meets_ContactChangesAreAccepted :
    (inputOf ready 15).raw = false ∧ ((inputOf (lined { ContactIn.init with raw := true, waiting := true }) 15).settled = false ∧
      (inputOf (lined { ContactIn.init with raw := true, waiting := true }) 15).raw = true) ∧
    (inputOf (lined { ContactIn.init with sinceRise := some 10 }) 15).settle ≤ 10 ∧
    ((inputOf (lined { ContactIn.init with sinceRise := some 9 }) 15).limiter = true ∧
      9 < (inputOf (lined { ContactIn.init with sinceRise := some 9 }) 15).settle) ∧
    (inputOf (lined { ContactIn.init with raw := true, waiting := true, settleDue := true }) 15).settleDue = true := by decide

/-! ### Show state and notices -/

theorem test_meets_LockKeyAndStopConfigAreTaken :
    Taken ha ready (begin 1 ready) ∧ Taken ha (locked ready) (begin 1 (locked ready)) ∧
    (Taken ha (routed [(0, desk)]) (begin 1 (routed [(0, desk)])) ∧
      badStop ⟨some 96, some 193, none, some (-1025), some 0xFFFFFF⟩ = false ∧ ready.ss.stopped = false ∧ guarded ready = false ∧
      ∀ p ∈ (routed [(0, desk)]).rt.routes, p.2.src = 96 → p.2.owner = .showstop) ∧
    (false = ready.ss.key ∧ true ≠ ready.ss.key) ∧
    ((95 < 96 ∧ 99 < 100 ∧ 2 ^ 24 ≤ (0x1000000 : BitVec 32).toNat) ∧ Taken ha (halted ready) (begin 1 (halted ready)) ∧
      (locked ready).ss.key = false ∧
      (let s := routed [(0, { desk with src := 96 })]
       Taken ha s (begin 1 s) ∧ 96 ≠ s.ss.stopSource ∧ ∃ p ∈ s.rt.routes, p.2.src = 96 ∧ p.2.owner ≠ .showstop)) :=
  ⟨taken _ _ rfl rfl, taken _ _ rfl rfl, ⟨taken _ _ rfl rfl, by decide⟩, by decide, by decide, taken _ _ rfl rfl, rfl, taken _ _ rfl rfl, by decide⟩

def linked : State := { ready with ef := { ready.ef with stopLink := 64, resumeLink := 64 } }

theorem test_meets_StopsAndResumesAreTaken :
    (Taken hb house (begin 1 house) ∧ house.ss.stopped = false ∧ RecordsOrdered (begin 1 house) ∧ CapacityHeld (begin 1 house) ∧
      Sound (begin 1 house) ∧ (begin 1 house).ef.depth < 5 ∧
      (∀ p ∈ house.rl.calls, p.2.active = true → p.2.voice = none) ∧ ∀ p ∈ house.rt.routes, p.2.owner = .relay → p.2.fade = none) ∧
    (Taken hb closed (begin 1 closed) ∧ closed.ss.stopped = true ∧ RecordsOrdered (begin 1 closed) ∧ Sound (begin 1 closed) ∧
      (begin 1 closed).ef.depth < 5 ∧ ∀ p ∈ closed.rt.routes, p.2.owner = .showstop → p.2.fade = none ∧ p.2.batch = none) ∧
    (∃ t, Delivered .stop ⟨64, 1, 1, []⟩ (flying 64 linked) t ∧ t.ss.stopped = false ∧ RecordsOrdered t ∧ CapacityHeld t) ∧
    (∃ t, Delivered .resume ⟨64, 1, 1, []⟩ (flying 64 (halted linked)) t ∧ t.ss.stopped = true ∧ RecordsOrdered t) ∧
    ready.rl.calls = [] ∧ ∀ n, n ≠ 16 → callOf closed n = none :=
  ⟨⟨taken _ _ rfl rfl, rfl, recordsOrdered_of_check (by decide +kernel), capacityHeld_of_listed (by decide +kernel),
      sound_of_check (by decide +kernel), by decide⟩,
    ⟨taken _ _ rfl rfl, rfl, recordsOrdered_of_check (by decide +kernel), sound_of_check (by decide +kernel), by decide⟩,
    ⟨_, delivered _ _ _ (by decide +kernel), rfl, recordsOrdered_of_check (by decide +kernel), capacityHeld_of_listed (by decide +kernel)⟩,
    ⟨_, delivered _ _ _ (by decide +kernel), rfl, recordsOrdered_of_check (by decide +kernel)⟩, rfl,
    fun n h => by simp [callOf, closed, Table.find_cons, Ne.symm h]⟩

theorem test_meets_PresetShowStartsThePerformance :
    Taken ha house (begin 1 house) ∧ guarded (begin 1 house) = false ∧ RecordsOrdered (begin 1 house) ∧
    (Sound (begin 1 house) ∧ cueFrom house 3 0 = some 999999 ∧ cueOf house 3 999999 = some playCue ∧ clipOf house 511 = some aClip) ∧
    (let s := standing CueList.init
     Taken ha s (begin 1 s) ∧ Sound (begin 1 s) ∧ cueFrom s 3 0 = some 999999 ∧ cueOf s 3 999999 = some aCue ∧ aCue.actions = []) :=
  ⟨taken _ _ rfl rfl, rfl, recordsOrdered_of_check (by decide +kernel), ⟨sound_of_check (by decide +kernel), by decide +kernel⟩,
    taken _ _ rfl rfl, sound_of_check (by decide +kernel), by decide +kernel⟩

theorem test_meets_NoticesAreRaisedAndFetched :
    (Taken ha ready (begin 1 ready) ∧ (0x7FFFF : BitVec 32).toNat < 2 ^ 19) ∧
    Taken ha (raise .key (.num 1) ready) (begin 1 (raise .key (.num 1) ready)) ∧
    (begin 1 (raise .key (.num 1) ready)).nt.kinds.rising = true :=
  ⟨⟨taken _ _ rfl rfl, by decide⟩, taken _ _ rfl rfl, by decide⟩

end Sys2Proof.Tests
end

section
/-! Cold reset (R195) block by block, what the views of the route table, the cue store and the lists read where nothing is listed, and the
settlement of O2 from the two. -/

namespace Sys2Proof.Machine

/-! ### What cold reset leaves in each block that R23 and R88 speak of -/

theorem exec_coldReset (s : State) : exec .coldReset s = .next (coldReset s) := rfl

@[simp] theorem coldReset_routes (s : State) : (coldReset s).rt.routes = [] := rfl
@[simp] theorem coldReset_gens (s : State) : (coldReset s).rt.gens = [] := rfl
@[simp] theorem coldReset_cues (s : State) : (coldReset s).cq.cues = [] := rfl
@[simp] theorem coldReset_lists (s : State) : (coldReset s).cq.lists = [] := rfl
@[simp] theorem coldReset_le_crosspoints (s : State) : (coldReset s).le.crosspoints = [] := rfl
@[simp] theorem coldReset_ve_waits (s : State) : (coldReset s).ve.waits = [] := rfl
@[simp] theorem coldReset_ef_goLinks (s : State) : (coldReset s).ef.goLinks = [] := rfl
@[simp] theorem coldReset_ss_stopSource (s : State) : (coldReset s).ss.stopSource = 99 := rfl

/-! ### The views of a table that lists nothing -/

section EmptyTables
variable {t : State}

theorem routeAt_of_routes_nil (h : t.rt.routes = []) (n : Nat) : routeAt t n = none := by
  rw [routeAt, h, Table.find_nil]

theorem genOf_of_gens_nil (h : t.rt.gens = []) (n : Nat) : genOf t n = 0 := by
  rw [genOf, h, Table.read_nil]

theorem findKey_of_routes_nil (h : t.rt.routes = []) (src dst : Nat) : findKey t src dst = none := by
  rw [findKey, h, List.find?_nil, Option.map_none]

theorem generalCount_of_routes_nil (h : t.rt.routes = []) : generalCount t = 0 := by
  rw [generalCount, h, List.filter_nil, List.length_nil]

theorem showstopCount_of_routes_nil (h : t.rt.routes = []) : showstopCount t = 0 := by
  rw [showstopCount, h, List.filter_nil, List.length_nil]

theorem destCount_of_routes_nil (h : t.rt.routes = []) (d : Nat) : destCount t d = 0 := by
  rw [destCount, h, List.filter_nil, List.length_nil]

theorem cueOf_of_cues_nil (h : t.cq.cues = []) (l n : Nat) : cueOf t l n = none := by
  rw [cueOf, h, Table.find_nil]

theorem cueCount_of_cues_nil (h : t.cq.cues = []) : cueCount t = 0 := by
  rw [cueCount, h, List.length_nil]

theorem actionCount_of_cues_nil (h : t.cq.cues = []) : actionCount t = 0 := by
  rw [actionCount, h, List.foldl_nil]

theorem listOf_of_lists_nil (h : t.cq.lists = []) (l : Nat) : listOf t l = CueList.init := by
  rw [listOf, h, Table.read_nil]

end EmptyTables

/-! ### The state after cold reset -/

/-- R23: no destination counts a record, and none has a SHOWSTOP record. -/
theorem coldReset_destination_free (s : State) (d : Nat) :
    destCount (coldReset s) d = 0 ∧ ∀ p ∈ (coldReset s).rt.routes, ¬(p.2.owner = .showstop ∧ p.2.dst = d) := by
  refine ⟨destCount_of_routes_nil (coldReset_routes s) d, fun p hp => ?_⟩
  rw [coldReset_routes] at hp
  exact absurd hp List.not_mem_nil

/-- R23: every crosspoint carries gain code 0. -/
theorem coldReset_crosspoint (s : State) (k : Nat) : (coldReset s).le.crosspoints.read Crosspoint.init k = ⟨0, 0⟩ := by
  rw [coldReset_le_crosspoints, Table.read_nil, Crosspoint.init]

/-- R88: every list reads its cold reset values. -/
theorem coldReset_list (s : State) (l : Nat) : listOf (coldReset s) l = ⟨.empty, none, none, [], 0, 300, false, none⟩ :=
  listOf_of_lists_nil (coldReset_lists s) l

/-- R88: no list has a GO link. -/
theorem coldReset_goLink (s : State) (l : Nat) : (coldReset s).ef.goLinks.read 0 l = 0 := by
  rw [coldReset_ef_goLinks, Table.read_nil]

/-- Settles O2: the witness from every state is `coldReset s`; each clause is a view of a table that cold reset leaves empty. -/
theorem coldResetEmptiesRoutesAndCues : Obligations.ColdResetEmptiesRoutesAndCues := by
  unfold Obligations.ColdResetEmptiesRoutesAndCues
  constructor
  · intro s
    have routes := coldReset_routes s
    exact ⟨coldReset s, exec_coldReset s,
      fun n => ⟨routeAt_of_routes_nil routes n, genOf_of_gens_nil (coldReset_gens s) n⟩,
      findKey_of_routes_nil routes, generalCount_of_routes_nil routes, showstopCount_of_routes_nil routes,
      coldReset_destination_free s, coldReset_crosspoint s, coldReset_ss_stopSource s⟩
  · intro s
    have cues := coldReset_cues s
    exact ⟨coldReset s, exec_coldReset s, cueOf_of_cues_nil cues, cueCount_of_cues_nil cues, actionCount_of_cues_nil cues,
      coldReset_list s, coldReset_ve_waits s, coldReset_goLink s⟩

end Sys2Proof.Machine
end

section
/-! Gain codes (R33): the code of a level given by its octave and its step in the octave, its monotony over all levels, its end values, and the
settlement of O25 from them. -/

namespace Sys2Proof.Machine

/-! ### The code by octave and step -/

/-- A level is the step `m` of the octave `k`, and R33's quotient and remainder by 64 find both. -/
theorem level_eq_octave_step (e : Int) : ∃ (k : Int) (m : Nat), m < 64 ∧ e = 64 * k + m :=
  ⟨e / 64, (e % 64).toNat, by omega, by omega⟩

theorem octave_fdiv (k : Int) {m : Nat} (hm : m < 64) : (64 * k + m).fdiv 64 = k := by
  rw [Int.fdiv_eq_ediv_of_nonneg _ (by decide)]
  omega

theorem octave_sub (k : Int) (m : Nat) : (64 * k + m - 64 * k).toNat = m := by omega

/-- R33 at an exponent `14 + k = x` that is not negative: the product, exact. -/
theorem gainCode_exact {k : Int} {m x : Nat} (hm : m < 64) (hx : 14 + k = x) :
    gainCode (.step (64 * k + m)) = (64 + m) * 2 ^ x := by
  simp only [gainCode, octave_fdiv k hm, octave_sub, hx, Int.natCast_nonneg, if_true, Int.toNat_natCast]

/-- R33 at a negative exponent `14 + k = -j`: the quotient by `2 ^ j`, halves rounded up. -/
theorem gainCode_rounded {k : Int} {m j : Nat} (hm : m < 64) (hj : 0 < j) (hk : 14 + k = -(j : Int)) :
    gainCode (.step (64 * k + m)) = (2 * (64 + m) + 2 ^ j) / (2 * 2 ^ j) := by
  have below : ¬ (0 : Int) ≤ -(j : Int) := by omega
  simp only [gainCode, octave_fdiv k hm, octave_sub, hk, if_neg below, Int.neg_neg, Int.toNat_natCast]

/-! ### Monotony -/

/-- Within an octave the next step's code is not below. -/
theorem gainCode_le_next_step (k : Int) {m : Nat} (hm : m < 63) :
    gainCode (.step (64 * k + m)) ≤ gainCode (.step (64 * k + (m + 1 : Nat))) := by
  have here : m < 64 := by omega
  have next : m + 1 < 64 := by omega
  rcases le_or_gt 0 (14 + k) with nonneg | negative
  · obtain ⟨x, hx⟩ := Int.eq_ofNat_of_zero_le nonneg
    rw [gainCode_exact here hx, gainCode_exact next hx]
    exact Nat.mul_le_mul_right _ (by omega)
  · obtain ⟨j, hj⟩ := Int.eq_ofNat_of_zero_le (show 0 ≤ -(14 + k) by omega)
    rw [gainCode_rounded here (j := j) (by omega) (by omega), gainCode_rounded next (j := j) (by omega) (by omega)]
    exact Nat.div_le_div_right (by omega)

/-- The last step of an octave, 127 at its exponent, is not above the first of the next, 64 at twice the scale: both products exact, the octave
where rounding ends, and both quotients rounded. -/
theorem gainCode_le_next_octave (k : Int) :
    gainCode (.step (64 * k + (63 : Nat))) ≤ gainCode (.step (64 * (k + 1) + (0 : Nat))) := by
  rcases le_or_gt 0 (14 + k) with nonneg | negative
  · obtain ⟨x, hx⟩ := Int.eq_ofNat_of_zero_le nonneg
    rw [gainCode_exact (by decide) hx, gainCode_exact (x := x + 1) (by decide) (by omega), Nat.pow_succ]
    omega
  · obtain ⟨j, hj⟩ := Int.eq_ofNat_of_zero_le (show 0 ≤ -(14 + k) - 1 by omega)
    rw [gainCode_rounded (j := j + 1) (by decide) (by omega) (by omega)]
    cases j with
    | zero =>
      rw [gainCode_exact (x := 0) (by decide) (by omega)]
      decide
    | succ i =>
      rw [gainCode_rounded (j := i + 1) (by decide) (by omega) (by omega)]
      calc (2 * (64 + 63) + 2 ^ (i + 1 + 1)) / (2 * 2 ^ (i + 1 + 1))
          ≤ (2 * (2 * (64 + 0) + 2 ^ (i + 1))) / (2 * (2 * 2 ^ (i + 1))) := by
            rw [Nat.pow_succ 2 (i + 1), Nat.mul_comm (2 ^ (i + 1)) 2]
            exact Nat.div_le_div_right (by omega)
        _ = (2 * (64 + 0) + 2 ^ (i + 1)) / (2 * 2 ^ (i + 1)) := Nat.mul_div_mul_left _ _ (by decide)

theorem gainCode_le_succ (e : Int) : gainCode (.step e) ≤ gainCode (.step (e + 1)) := by
  obtain ⟨k, m, hm, rfl⟩ := level_eq_octave_step e
  rcases Nat.lt_or_ge m 63 with inside | last
  · have next : 64 * k + m + 1 = 64 * k + (m + 1 : Nat) := by omega
    rw [next]
    exact gainCode_le_next_step k inside
  · obtain rfl : m = 63 := by omega
    have next : 64 * k + (63 : Nat) + 1 = 64 * (k + 1) + (0 : Nat) := by omega
    rw [next]
    exact gainCode_le_next_octave k

/-- R33: the gain code never decreases, over every level and not only those of the range. -/
theorem gainCode_mono {a b : Int} (h : a ≤ b) : gainCode (.step a) ≤ gainCode (.step b) :=
  monotone_int_of_le_succ (f := fun e => gainCode (.step e)) gainCode_le_succ h

/-! ### The range -/

theorem gainCode_off : gainCode .off = 0 := rfl
theorem gainCode_bottom : gainCode (.step (-1024)) = 16 := by decide
theorem gainCode_top : gainCode (.step 192) = 8388608 := by decide
theorem gainCode_unity : gainCode (.step 0) = 1048576 := by decide

/-- The codes of the level range lie between those of its ends. -/
theorem gainCode_bounds {e : Int} (low : -1024 ≤ e) (high : e ≤ 192) :
    16 ≤ gainCode (.step e) ∧ gainCode (.step e) ≤ 8388608 :=
  ⟨gainCode_bottom ▸ gainCode_mono low, gainCode_top ▸ gainCode_mono high⟩

/-- R33 over an exponent of -1 or -2, the negative ones of the level range: the code times the divisor `d` is nearest to `64 + m`, halves up. -/
theorem gainCode_nearest {k : Int} {m : Nat} (hm : m < 64) (low : -16 ≤ k) (negative : 14 + k < 0) :
    let d : Int := if k = -15 then 2 else 4
    2 * (d * gainCode (.step (64 * k + m))) ≤ 2 * (64 + m) + d ∧
      2 * (64 + m) + d < 2 * (d * gainCode (.step (64 * k + m))) + 2 * d := by
  obtain rfl | rfl : k = -15 ∨ k = -16 := by omega
  · rw [gainCode_rounded (j := 1) hm (by decide) (by decide)]
    simp only [if_true]
    omega
  · rw [gainCode_rounded (j := 2) hm (by decide) (by decide)]
    simp only [show ¬ (-16 : Int) = -15 by decide, if_false]
    omega

/-- Settles O25: the level is taken apart into octave and step, the exact and the rounded code are read off there, and the bounds follow from
monotony and the end values. -/
theorem gainCodesFollowTheEffectiveLevel : Obligations.GainCodesFollowTheEffectiveLevel := by
  unfold Obligations.GainCodesFollowTheEffectiveLevel
  refine ⟨gainCode_off, fun e low high => ?_, gainCode_bottom, gainCode_top, gainCode_unity, fun a b _ hab _ => gainCode_mono hab⟩
  obtain ⟨atLeast, atMost⟩ := gainCode_bounds low high
  obtain ⟨k, m, hm, rfl⟩ := level_eq_octave_step e
  have octave : (64 * k + m) / 64 = k := by omega
  have step : 64 * k + m - 64 * k = (m : Int) := by omega
  simp only [octave, step]
  refine ⟨by omega, by omega, by omega, by omega, by omega, by omega, fun nonneg => ?_, gainCode_nearest hm (by omega)⟩
  obtain ⟨x, hx⟩ := Int.eq_ofNat_of_zero_le nonneg
  rw [gainCode_exact hm hx, hx, Int.toNat_natCast]
  norm_cast

end Sys2Proof.Machine
end

section
/-! RaiseEvent (R167): what it does with a number in each range of its port, the event it hands over, and the settlement of O53 from the two. -/

namespace Sys2Proof.Machine

/-! ### What a taken request hands over -/

/-- R164: what a request emits has the depth of an external cause. -/
theorem Taken.depth {h : Hdr} {s t : State} (taken : Taken h s t) : t.ef.depth = 1 := by
  obtain ⟨_, _, rfl⟩ := taken
  simp only [begin_fabric]

/-- R164: an event within the chain limit joins the end of the events handed over, with the depth of its cause, and nothing else changes. -/
theorem emit_of_depth_lt {s : State} (within : s.ef.depth < 5) (id : Nat) :
    emit id s = { s with ef := { s.ef with events := s.ef.events ++ [⟨id, s.ef.depth, s.ef.cause, []⟩] } } := by
  rw [emit, if_pos within, if_pos within]

theorem Taken.emit_eq {h : Hdr} {s t : State} (taken : Taken h s t) (id : Nat) :
    emit id t = { t with ef := { t.ef with events := t.ef.events ++ [⟨id, 1, t.ef.cause, []⟩] } } := by
  rw [emit_of_depth_lt (by rw [taken.depth]; decide), taken.depth]

/-! ### The ranges of RaiseEvent -/

theorem doRaiseEvent_invalid {n : Nat} (above : 127 < n) (h : Hdr) (s : State) : doRaiseEvent h n s = (s, refuse .invalid) :=
  if_pos above

theorem doRaiseEvent_denied {h : Hdr} {n : Nat} (portB : h.port = .b) (low : n ≤ 63) (s : State) :
    doRaiseEvent h n s = (s, refuse .denied) := by
  rw [doRaiseEvent, if_neg (by omega), if_pos ⟨portB, by omega⟩]

theorem doRaiseEvent_emits {h : Hdr} {n : Nat} (valid : n ≤ 127) (ofPort : h.port = .b → 64 ≤ n) (s : State) :
    doRaiseEvent h n s = (emit (256 + n) s, okWith []) := by
  have notDenied : ¬ (h.port = .b ∧ n < 64) := fun ⟨portB, low⟩ => Nat.not_lt.mpr (ofPort portB) low
  rw [doRaiseEvent, if_neg (by omega), if_neg notDenied]

/-- R190: a RaiseEvent taken at once is answered by its own operation, on either port. -/
theorem exec_raiseEvent {h : Hdr} {s t : State} (taken : Taken h s t) (n : Nat) :
    exec (.raiseEvent h n) s = .next (reply h (doRaiseEvent h n t).2 (doRaiseEvent h n t).1) := by
  calc exec (.raiseEvent h n) s
      = request (.raiseEvent h n) h s := rfl
    _ = .next (runRequest (.raiseEvent h n) t) := request_taken taken
    _ = .next (answerWith h true (doRaiseEvent h n) t) := rfl
    _ = .next (reply h (doRaiseEvent h n t).2 (doRaiseEvent h n t).1) := by rw [answerWith_taken (.inr rfl)]

/-- Settles O53: a taken RaiseEvent answers by its number's range, and in the range of its port the event it emits has depth 1. -/
theorem raiseEventEmitsAHostEvent : Obligations.RaiseEventEmitsAHostEvent := by
  unfold Obligations.RaiseEventEmitsAHostEvent
  intro h n s t taken
  rw [exec_raiseEvent taken]
  refine ⟨fun above => ?_, fun portB low => ?_, fun valid ofPort => ?_⟩
  · rw [doRaiseEvent_invalid above]
  · rw [doRaiseEvent_denied portB low]
  · rw [doRaiseEvent_emits valid ofPort, taken.emit_eq]

end Sys2Proof.Machine
end

section
/-! The status byte and the transactions of the control ports (R188): the bits of the byte, that a request which its port takes leaves the bytes
sent alone, that every transaction opens with the byte, and the settlement of O15 from these. -/

namespace Sys2Proof.Machine

/-! ### The bits of the status byte -/

/-- Bit `i` of a byte given by a number: what the number leaves modulo two once the `i` lowest bits are taken off. -/
theorem getLsbD_ofNat_of_div_mod {n i : Nat} {b : Bool} (inByte : i < 8) (bit : n / 2 ^ i % 2 = b.toNat) : (BitVec.ofNat 8 n).getLsbD i = b := by
  rw [BitVec.getLsbD_ofNat, decide_eq_true inByte, Bool.true_and, Nat.testBit_eq_decide_div_mod_eq, bit]
  cases b <;> rfl

/-- Eight flags summed with the weights 128 to 1 (TABLE 12-1) stand at bits 7 to 0: the heavier ones sum to a multiple of twice a flag's weight
and the lighter ones to less than that weight. -/
theorem getLsbD_of_weights (b7 b6 b5 b4 b3 b2 b1 b0 : Bool) {byte : Byte}
    (weighted : byte = BitVec.ofNat 8 (128 * b7.toNat + 64 * b6.toNat + 32 * b5.toNat + 16 * b4.toNat + 8 * b3.toNat + 4 * b2.toNat
      + 2 * b1.toNat + b0.toNat)) :
    byte.getLsbD 7 = b7 ∧ byte.getLsbD 6 = b6 ∧ byte.getLsbD 5 = b5 ∧ byte.getLsbD 4 = b4 ∧
    byte.getLsbD 3 = b3 ∧ byte.getLsbD 2 = b2 ∧ byte.getLsbD 1 = b1 ∧ byte.getLsbD 0 = b0 := by
  subst weighted
  have h7 := b7.toNat_le; have h6 := b6.toNat_le; have h5 := b5.toNat_le; have h4 := b4.toNat_le
  have h3 := b3.toNat_le; have h2 := b2.toNat_le; have h1 := b1.toNat_le; have h0 := b0.toNat_le
  refine ⟨?_, ?_, ?_, ?_, ?_, ?_, ?_, ?_⟩ <;> exact getLsbD_ofNat_of_div_mod (by decide) (by omega)

/-- TABLE 12-1, with each item in the words of R188. -/
theorem statusByte_items (s : State) (p : Port) :
    (statusByte s p).getLsbD 7 = s.ready ∧ (statusByte s p).getLsbD 6 = decide (8 ≤ (portOf s p).requests.length) ∧
    (statusByte s p).getLsbD 5 = decide ((portOf s p).replies ≠ []) ∧ (statusByte s p).getLsbD 4 = notify s ∧
    (statusByte s p).getLsbD 3 = (portOf s p).dropped ∧ (statusByte s p).getLsbD 2 = s.ss.stopped ∧
    (statusByte s p).getLsbD 1 = s.ss.locked ∧ (statusByte s p).getLsbD 0 = s.ss.key := by
  have available : (!(portOf s p).replies.isEmpty) = decide ((portOf s p).replies ≠ []) := by
    cases (portOf s p).replies <;> rfl
  rw [← available]
  exact getLsbD_of_weights _ _ _ _ _ _ _ _ rfl

/-! ### The remaining requests' own operations leave the ports alone -/

theorem doSetRetireWindow_inner (w : Nat) (s : State) : Inner s (doSetRetireWindow w s).1 :=
  ⟨rfl, rfl, rfl, rfl, rfl, rfl, fun k => { k with }⟩

theorem doSetPauseRamp_inner (r : Nat) (s : State) : Inner s (doSetPauseRamp r s).1 :=
  ⟨rfl, rfl, rfl, rfl, rfl, rfl, fun k => { k with ve := { k.ve with } }⟩

theorem doSetConditionPreset_inner (c : Nat) (v : Bool) (s : State) : Inner s (doSetConditionPreset c v s).1 :=
  Inner.check fun _ => Inner.check fun _ =>
    ⟨rfl, rfl, rfl, rfl, rfl, rfl, fun k => { k with cf := { k.cf with presets := Table.rising_write _ _ _ _ k.cf.presets } }⟩

theorem doSetConditionLink_inner (l e c : Nat) (v : Bool) (s : State) : Inner s (doSetConditionLink l e c v s).1 :=
  Inner.check fun _ => Inner.check fun _ =>
    ⟨rfl, rfl, rfl, rfl, rfl, rfl, fun k => { k with cf := { k.cf with links := Table.rising_write _ _ _ _ k.cf.links } }⟩

theorem doSetOutputFunction_inner (f : Nat) (t : Option Nat) (on off : Option (BitVec 16)) (s : State) :
    Inner s (doSetOutputFunction f t on off s).1 :=
  Inner.check fun _ => Inner.check fun _ =>
    ⟨rfl, rfl, rfl, rfl, rfl, rfl, fun k => { k with ef := { k.ef with fns := Table.rising_write _ _ _ _ k.ef.fns } }⟩

theorem doSetWatch_inner (q : WatchArgs) (s : State) : Inner s (doSetWatch q s).1 := by
  unfold doSetWatch
  refine Inner.check fun _ => Inner.check fun _ => ?_
  dsimp only
  exact updWatch_inner _ _ s

theorem doSetStopConfig_inner (q : StopArgs) (s : State) : Inner s (doSetStopConfig q s).1 :=
  Inner.check fun _ => Inner.check fun _ => Inner.check fun _ => Inner.check fun _ => ⟨rfl, rfl, rfl, rfl, rfl, rfl, fun k => { k with }⟩

theorem doShowStop_inner (h : Hdr) (s : State) : Inner s (doShowStop h s).1 := by
  unfold doShowStop
  exact Inner.check fun _ => takeStop_inner _ s

theorem doShowResume_inner (s : State) : Inner s (doShowResume s).1 := by
  unfold doShowResume
  split
  · exact takeResume_inner s
  · exact Inner.refl s

theorem doPresetShow_inner (s : State) : Inner s (doPresetShow s).1 := by
  unfold doPresetShow
  split
  · exact Inner.refl s
  · dsimp only
    exact takePreset_inner s

theorem doFetchNotices_inner (s : State) : Inner s (doFetchNotices s).1 := by
  refine ⟨rfl, rfl, rfl, rfl, rfl, rfl, fun k => { k with nt := { k.nt with kinds := ?_ } }⟩
  simp only [doFetchNotices]
  exact Table.rising_mapWrite _ _ _ k.nt.kinds

theorem doSetNoticeNode_inner (n : Nat) (e : Option Bool) (m : Option (BitVec 32)) (s : State) : Inner s (doSetNoticeNode n e m s).1 :=
  Inner.check fun _ => ⟨rfl, rfl, rfl, rfl, rfl, rfl, fun k => { k with nt := { k.nt with nodes := Table.rising_write _ _ _ _ k.nt.nodes } }⟩

/-! ### What the ports have sent -/

/-- On either port the bytes sent in its last transaction stand as they did. -/
def SentKept (s t : State) : Prop := ∀ q, (portOf t q).out = (portOf s q).out

theorem SentKept.refl (s : State) : SentKept s s := fun _ => rfl

theorem SentKept.trans {s t u : State} (h : SentKept s t) (k : SentKept t u) : SentKept s u := fun q => (k q).trans (h q)

theorem Inner.sentKept {s t : State} (h : Inner s t) : SentKept s t
  | .a => congrArg PortState.out h.portA
  | .b => congrArg PortState.out h.portB

theorem updPort_sentKept (p : Port) {f : PortState → PortState} (same : ∀ x, (f x).out = x.out) (s : State) : SentKept s (updPort p f s) := by
  intro q
  rw [portOf_updPort]
  split
  · next own => rw [same, own]
  · rfl

theorem reply_sentKept (h : Hdr) (a : Answer) (s : State) : SentKept s (reply h a s) := updPort_sentKept h.port (by exact fun _ => rfl) s

theorem arrive_sentKept (p : Port) (i : Instr) (s : State) : SentKept s (arrive p i s) := by
  unfold arrive
  split
  · exact (updPort_sentKept p (by exact fun _ => rfl) s).trans (raise_internal _ _ _).inner.sentKept
  · exact updPort_sentKept p (by exact fun _ => rfl) s

theorem answerWith_sentKept {h : Hdr} {forB : Bool} {act : State → State × Answer} {s : State} (acts : Inner s (act s).1) :
    SentKept s (answerWith h forB act s) := by
  unfold answerWith
  split
  · exact reply_sentKept h _ s
  · exact acts.sentKept.trans (reply_sentKept h _ _)

theorem reading_sentKept (h : Hdr) (forB : Bool) (read : State → Answer) (s : State) : SentKept s (answerWith h forB (reading read) s) :=
  answerWith_sentKept (Inner.refl s)

theorem startWrite_sentKept (h : Hdr) (addr : Nat) (words : List Sample) (s : State) : SentKept s (startWrite h addr words s) := by
  unfold startWrite
  split
  · exact reply_sentKept h _ s
  · split
    · exact reply_sentKept h _ s
    · refine SentKept.trans (fun q => ?_) (grant_internal _).inner.sentKept
      cases q <;> rfl

/-- What a request does once taken, R186: it answers, or waits for its transfer; only a transaction sends. -/
theorem runRequest_sentKept (i : Instr) (s : State) : SentKept s (runRequest i s) := by
  cases i with
  | unknownRequest | lookupRoute | readRoute | listRoutes | readStatus | readMeters | readLevels | readBatch | readCue | readList
  | readConditions | readClip | readVoice | readMix | readPanels | readZone | readCall | readQueue | readCallPreset | readLinks
  | readContacts | readWatch | readShowState | readNotices | readIdentity => exact reading_sentKept _ _ _ s
  | writeSamples h addr words => exact startWrite_sentKept h addr words s
  | postRoute => exact answerWith_sentKept (doPostRoute_inner _ s)
  | amendRoute => exact answerWith_sentKept (doAmendRoute_inner _ s)
  | setSourceTrim => exact answerWith_sentKept (doSetSourceTrim_inner _ _ s)
  | setMaster => exact answerWith_sentKept (doSetMaster_inner _ _ _ s)
  | setStatusControls => exact answerWith_sentKept (doSetStatusControls_inner _ _ _ _ s)
  | clearStatus => exact answerWith_sentKept (doClearStatus_inner _ _ s)
  | retireRoute => exact answerWith_sentKept (doRetireRoute_inner _ _ _ s)
  | retireGroup => exact answerWith_sentKept (doRetireGroup_inner _ _ _ _ s)
  | setRetireWindow => exact answerWith_sentKept (doSetRetireWindow_inner _ s)
  | postCue => exact answerWith_sentKept (doPostCue_kept _ s).inner
  | replaceCue => exact answerWith_sentKept (doReplaceCue_kept _ s).inner
  | retireCue => exact answerWith_sentKept (doRetireCue_kept _ _ s).inner
  | setStandby => exact answerWith_sentKept (doSetStandby_kept _ _ s).inner
  | setListConfig => exact answerWith_sentKept (doSetListConfig_kept _ _ _ s).inner
  | go => exact answerWith_sentKept (doGo_kept _ _ s).inner
  | setCondition => exact answerWith_sentKept (doSetCondition_kept _ _ _ s).inner
  | setConditionPreset => exact answerWith_sentKept (doSetConditionPreset_inner _ _ s)
  | setConditionLink => exact answerWith_sentKept (doSetConditionLink_inner _ _ _ _ s)
  | postClip => exact answerWith_sentKept (doPostClip_inner _ s)
  | retireClip => exact answerWith_sentKept (doRetireClip_inner _ s)
  | setPauseRamp => exact answerWith_sentKept (doSetPauseRamp_inner _ s)
  | setMixConfig => exact answerWith_sentKept (doSetMixConfig_inner _ s)
  | setFoldbackBase => exact answerWith_sentKept (doSetFoldbackBase_inner _ s)
  | setFoldbackBaseRemove => exact answerWith_sentKept (doRemoveEntry_inner _ s)
  | enrolPanel => exact answerWith_sentKept (doEnrolPanel_inner _ _ s)
  | withdrawPanel => exact answerWith_sentKept (doWithdrawPanel_inner _ s)
  | setZoneConfig => exact answerWith_sentKept (doSetZoneConfig_internal _ s).inner
  | placeCall => exact answerWith_sentKept (doPlaceCall_listsKept _ _ s).inner
  | releaseCall => exact answerWith_sentKept (doReleaseCall_listsKept _ _ s).inner
  | cancelCall => exact answerWith_sentKept (doCancelCall_listsKept _ _ s).inner
  | setCallPreset => exact answerWith_sentKept (doSetCallPreset_listsKept _ s).inner
  | setLink => exact answerWith_sentKept (doSetLink_inner _ _ s)
  | raiseEvent => exact answerWith_sentKept (doRaiseEvent_internal _ _ s).inner
  | setContactInput => exact answerWith_sentKept (doSetContactInput_inner _ s)
  | setContactOutputs => exact answerWith_sentKept (doSetContactOutputs_internal _ _ s).inner
  | setOutputOwner => exact answerWith_sentKept (doSetOutputOwner_internal _ _ s).inner
  | setOutputFunction => exact answerWith_sentKept (doSetOutputFunction_inner _ _ _ _ s)
  | setWatch => exact answerWith_sentKept (doSetWatch_inner _ s)
  | lockShow => exact answerWith_sentKept (doLockShow_inner s)
  | unlockShow => exact answerWith_sentKept (doUnlockShow_inner s)
  | setStopConfig => exact answerWith_sentKept (doSetStopConfig_inner _ s)
  | showStop => exact answerWith_sentKept (doShowStop_inner _ s)
  | showResume => exact answerWith_sentKept (doShowResume_inner s)
  | presetShow => exact answerWith_sentKept (doPresetShow_inner s)
  | fetchNotices => exact answerWith_sentKept (doFetchNotices_inner s)
  | setNoticeNode => exact answerWith_sentKept (doSetNoticeNode_inner _ _ _ s)
  | _ => exact SentKept.refl s -- the commands that are no requests: taken, they change nothing

theorem takeRounds_sentKept (p : Port) : ∀ (n : Nat) (s : State), SentKept s (takeRounds p n s)
  | 0, s => SentKept.refl s
  | n + 1, s => by
    rw [takeRounds]
    split
    · split
      · exact SentKept.refl s
      · next i rest _ =>
        have popped := updPort_sentKept p (f := fun x => { x with requests := rest }) (fun _ => rfl) s
        have begun := popped.trans (begin_internal 1 _).inner.sentKept
        exact (begun.trans (runRequest_sentKept i _)).trans (takeRounds_sentKept p n _)
    · exact SentKept.refl s

theorem takeWaiting_sentKept (p : Port) (s : State) : SentKept s (takeWaiting p s) := takeRounds_sentKept p _ s

/-! ### Every transaction opens with the status byte -/

/-- The status byte of `s` is the first byte sent in the last transaction of port `p` of `t`. -/
def OpensWith (s : State) (p : Port) (t : State) : Prop := (portOf t p).out.head? = some (statusByte s p)

theorem transact_opens (p : Port) (rest : List Byte) (s : State) : OpensWith s p (transact p rest s) := by
  rw [OpensWith, transact, portOf_updPort, if_pos rfl, List.head?_cons]

theorem OpensWith.keep {s t u : State} {p : Port} (opened : OpensWith s p t) (kept : SentKept t u) : OpensWith s p u := by
  rw [OpensWith, kept p]
  exact opened

theorem writeRequest_opens (p : Port) (bytes : List Byte) (s : State) : OpensWith s p (writeRequest p bytes s) := by
  unfold writeRequest
  dsimp only
  split
  · exact transact_opens p _ s
  · exact (transact_opens p _ s).keep ((arrive_sentKept p _ _).trans (takeWaiting_sentKept p _))

theorem readReply_opens (p : Port) (n : Nat) (s : State) : OpensWith s p (readReply p n s) := by
  unfold readReply
  split
  · exact transact_opens p _ s
  · dsimp only
    split
    · exact (transact_opens p _ s).keep ((updPort_sentKept p (by exact fun _ => rfl) _).trans (takeWaiting_sentKept p _))
    · exact transact_opens p _ s

theorem exec_writeRequest (p : Port) (bytes : List Byte) (s : State) : exec (.writeRequest p bytes) s = .next (writeRequest p bytes s) := rfl

theorem exec_readReply (p : Port) (n : Nat) (s : State) : exec (.readReply p n) s = .next (readReply p n s) := rfl

theorem exec_unknownSelector (p : Port) (n : Nat) (s : State) :
    exec (.unknownSelector p n) s = .next (transact p (List.replicate n 0) s) := rfl

/-- Settles O15: the items are the bits of the weighted sum, and what a transaction takes after its opening sends nothing on a port. -/
theorem statusByteOpensEveryTransaction : Obligations.StatusByteOpensEveryTransaction := by
  unfold Obligations.StatusByteOpensEveryTransaction
  refine ⟨statusByte_items, fun s p bytes n => ⟨?_, ?_, ?_⟩⟩
  · exact ⟨_, exec_writeRequest p bytes s, writeRequest_opens p bytes s⟩
  · exact ⟨_, exec_readReply p n s, readReply_opens p n s⟩
  · rw [exec_unknownSelector, transact]

end Sys2Proof.Machine
end
